-- ==== Sys2Proof/Word.lean ====
section
/-! DEFINITION. The words of the machine (spec/00_scope.md R8, R9): bytes, 16-bit words, and the two
ways a word is put together from bytes and taken apart again. All values are unsigned. -/

namespace Sys2Proof

/-- `u8` of R8. -/
abbrev Byte := BitVec 8

/-- `u16` of R8: `I`, `PC`, `SP` and the instruction word. -/
abbrev Word := BitVec 16

/-- The number of a general register, 0..15 (spec/10_state.md R20). -/
abbrev RegIdx := Fin 16

/-- `VF`, register 15 (R20, R22). -/
abbrev VF : RegIdx := 15

/-- `w[15:8]` (R9). -/
def highByte (w : Word) : Byte := w.extractLsb' 8 8

/-- `w[7:0]` (R9). -/
def lowByte (w : Word) : Byte := w.extractLsb' 0 8

/-- `hi ++ lo` of R9: the byte `hi` becomes bits 15:8. -/
def wordOfBytes (hi lo : Byte) : Word := hi ++ lo

end Sys2Proof
end

