-- ==== Sys2Proof/Syntax.lean ====
section
/-! DEFINITION. The instructions: one constructor per row of spec/opcode_table.json, named after its
class (spec/30_encoding.md R65, R76). The operands are the fields of R62 that the row's format names. -/

namespace Sys2Proof

/-- The 34 instructions of R70. The row count of `drw` is "a count 0..15" (R63), held as a number and
checked by `Instr.wellFormed`; every other operand's range is its type. -/
inductive Instr where
  | cls
  | ret
  | jpNnn (nnn : BitVec 12)
  | call (nnn : BitVec 12)
  | seVxNn (x : RegIdx) (nn : Byte)
  | sneVxNn (x : RegIdx) (nn : Byte)
  | seVxVy (x y : RegIdx)
  | ldVxNn (x : RegIdx) (nn : Byte)
  | addVxNn (x : RegIdx) (nn : Byte)
  | ldVxVy (x y : RegIdx)
  | orVxVy (x y : RegIdx)
  | andVxVy (x y : RegIdx)
  | xorVxVy (x y : RegIdx)
  | addVxVy (x y : RegIdx)
  | subVxVy (x y : RegIdx)
  | shrVxVy (x y : RegIdx)
  | subnVxVy (x y : RegIdx)
  | shlVxVy (x y : RegIdx)
  | sneVxVy (x y : RegIdx)
  | ldINnn (nnn : BitVec 12)
  | jpV0 (nnn : BitVec 12)
  | rnd (x : RegIdx) (nn : Byte)
  | drw (x y : RegIdx) (n : Nat)
  | skp (x : RegIdx)
  | sknp (x : RegIdx)
  | ldVxDt (x : RegIdx)
  | ldVxK (x : RegIdx)
  | ldDtVx (x : RegIdx)
  | ldStVx (x : RegIdx)
  | addIVx (x : RegIdx)
  | ldFVx (x : RegIdx)
  | ldBVx (x : RegIdx)
  | ldMiVx (x : RegIdx)
  | ldVxMi (x : RegIdx)
  deriving DecidableEq, Repr

end Sys2Proof
end

