-- ==== Sys2Proof/Decode.lean ====
section
/-! DEFINITION. The decoder of spec/30_encoding.md (R60 to R79), total on every word and every list of
bytes, rejecting by name; and after it the encoder, written from the same format table (R61, R76). -/

namespace Sys2Proof

/-- Why a word (or a list of bytes) is no instruction (R66 to R69). The cycle turns every one of them
but `truncated` into the UnsupportedInstruction fault (R72); a list too short for a word never
reaches the decoder in a cycle, since the fetch reads two bytes. -/
inductive Reject where
  /-- A family-0 word other than 0x00E0 and 0x00EE (R66). -/
  | family0
  /-- A family-8 word whose `n` is 8..D or F (R67). -/
  | family8
  /-- A family-E word whose `nn` is not 9E or A1 (R68). -/
  | familyE
  /-- A family-F word whose `nn` is none of the nine (R69). -/
  | familyF
  /-- Fewer than two bytes were given (R60). -/
  | truncated
  deriving DecidableEq, Repr

/-- `fam = w[15:12]` (R62, R64). -/
def fieldFam (w : Word) : BitVec 4 := w.extractLsb' 12 4

/-- `x = w[11:8]` (R62). -/
def fieldX (w : Word) : RegIdx := (w.extractLsb' 8 4).toFin

/-- `y = w[7:4]` (R62). -/
def fieldY (w : Word) : RegIdx := (w.extractLsb' 4 4).toFin

/-- `n = w[3:0]` (R62). -/
def fieldN (w : Word) : BitVec 4 := w.extractLsb' 0 4

/-- `nn = w[7:0]` (R62). -/
def fieldNn (w : Word) : Byte := w.extractLsb' 0 8

/-- `nnn = w[11:0]` (R62). -/
def fieldNnn (w : Word) : BitVec 12 := w.extractLsb' 0 12

/-- Family 0 is selected on the whole word (R66). -/
def decode0 (w : Word) : Except Reject Instr :=
  if w = 0x00E0#16 then .ok .cls
  else if w = 0x00EE#16 then .ok .ret
  else .error .family0

/-- Family 8 is selected on `n` (R67). -/
def decode8 (w : Word) : Except Reject Instr :=
  let x := fieldX w
  let y := fieldY w
  match (fieldN w).toNat with
  | 0x0 => .ok (.ldVxVy x y)
  | 0x1 => .ok (.orVxVy x y)
  | 0x2 => .ok (.andVxVy x y)
  | 0x3 => .ok (.xorVxVy x y)
  | 0x4 => .ok (.addVxVy x y)
  | 0x5 => .ok (.subVxVy x y)
  | 0x6 => .ok (.shrVxVy x y)
  | 0x7 => .ok (.subnVxVy x y)
  | 0xE => .ok (.shlVxVy x y)
  | _ => .error .family8

/-- Family E is selected on `nn` (R68). -/
def decodeE (w : Word) : Except Reject Instr :=
  match (fieldNn w).toNat with
  | 0x9E => .ok (.skp (fieldX w))
  | 0xA1 => .ok (.sknp (fieldX w))
  | _ => .error .familyE

/-- Family F is selected on `nn` (R69). -/
def decodeF (w : Word) : Except Reject Instr :=
  let x := fieldX w
  match (fieldNn w).toNat with
  | 0x07 => .ok (.ldVxDt x)
  | 0x0A => .ok (.ldVxK x)
  | 0x15 => .ok (.ldDtVx x)
  | 0x18 => .ok (.ldStVx x)
  | 0x1E => .ok (.addIVx x)
  | 0x29 => .ok (.ldFVx x)
  | 0x33 => .ok (.ldBVx x)
  | 0x55 => .ok (.ldMiVx x)
  | 0x65 => .ok (.ldVxMi x)
  | _ => .error .familyF

/-- The classifier of R65 with the fields of R62. Families 5 and 9 do not look at `n`
(R71, log entry 14). -/
def decode (w : Word) : Except Reject Instr :=
  match (fieldFam w).toNat with
  | 0x0 => decode0 w
  | 0x1 => .ok (.jpNnn (fieldNnn w))
  | 0x2 => .ok (.call (fieldNnn w))
  | 0x3 => .ok (.seVxNn (fieldX w) (fieldNn w))
  | 0x4 => .ok (.sneVxNn (fieldX w) (fieldNn w))
  | 0x5 => .ok (.seVxVy (fieldX w) (fieldY w))
  | 0x6 => .ok (.ldVxNn (fieldX w) (fieldNn w))
  | 0x7 => .ok (.addVxNn (fieldX w) (fieldNn w))
  | 0x8 => decode8 w
  | 0x9 => .ok (.sneVxVy (fieldX w) (fieldY w))
  | 0xA => .ok (.ldINnn (fieldNnn w))
  | 0xB => .ok (.jpV0 (fieldNnn w))
  | 0xC => .ok (.rnd (fieldX w) (fieldNn w))
  | 0xD => .ok (.drw (fieldX w) (fieldY w) (fieldN w).toNat)
  | 0xE => decodeE w
  | _ => decodeF w -- the sixteenth family, 0xF

/-- The decoder on bytes as they lie in memory: the first byte is bits 15:8 of the word
(spec/20_memory.md R43). Answers the instruction and the bytes after it. -/
def decodeBytes : List Byte → Except Reject (Instr × List Byte)
  | hi :: lo :: rest =>
    match decode (wordOfBytes hi lo) with
    | .ok i => .ok (i, rest)
    | .error r => .error r
  | [_] => .error .truncated
  | [] => .error .truncated

/-- The instruction word of a table row's bits: bit 0 of `w` is the word's bit 0 (R9), and every bit
from `nbits` up is 0. -/
def tableWord (nbits w : Nat) : Word := BitVec.ofNat 16 (w % 2 ^ nbits)

/-- What the decoder reads from an instruction whose bits are `w`, laid out as in memory, high byte at
the lower address (R43). -/
def decodeTableWord (nbits w : Nat) : Option Instr :=
  match decodeBytes [highByte (tableWord nbits w), lowByte (tableWord nbits w)] with
  | .ok (i, _) => some i
  | .error _ => none

/-- A register number in four bits (R62). -/
def regBits (x : RegIdx) : BitVec 4 := BitVec.ofFin x

/-- Format NNN of R61: `ffff aaaa aaaa aaaa`. -/
def wordNnn (fam : BitVec 4) (nnn : BitVec 12) : Word := fam ++ nnn

/-- Formats XNN and XSS of R61: `ffff xxxx kkkk kkkk`. -/
def wordXnn (fam : BitVec 4) (x : RegIdx) (nn : Byte) : Word := fam ++ (regBits x ++ nn)

/-- Formats XY-, XYS and XYN of R61: `ffff xxxx yyyy nnnn`. -/
def wordXyn (fam : BitVec 4) (x y : RegIdx) (n : BitVec 4) : Word :=
  fam ++ (regBits x ++ (regBits y ++ n))

/-- The word of an instruction: the pattern of R76 with the fields of R62 filled in (R77). The ignored
bits 3:0 of `SE Vx, Vy` and `SNE Vx, Vy` are encoded as 0 (R77). -/
def encode : Instr → Word
  | .cls => 0x00E0#16
  | .ret => 0x00EE#16
  | .jpNnn nnn => wordNnn 0x1#4 nnn
  | .call nnn => wordNnn 0x2#4 nnn
  | .seVxNn x nn => wordXnn 0x3#4 x nn
  | .sneVxNn x nn => wordXnn 0x4#4 x nn
  | .seVxVy x y => wordXyn 0x5#4 x y 0x0#4
  | .ldVxNn x nn => wordXnn 0x6#4 x nn
  | .addVxNn x nn => wordXnn 0x7#4 x nn
  | .ldVxVy x y => wordXyn 0x8#4 x y 0x0#4
  | .orVxVy x y => wordXyn 0x8#4 x y 0x1#4
  | .andVxVy x y => wordXyn 0x8#4 x y 0x2#4
  | .xorVxVy x y => wordXyn 0x8#4 x y 0x3#4
  | .addVxVy x y => wordXyn 0x8#4 x y 0x4#4
  | .subVxVy x y => wordXyn 0x8#4 x y 0x5#4
  | .shrVxVy x y => wordXyn 0x8#4 x y 0x6#4
  | .subnVxVy x y => wordXyn 0x8#4 x y 0x7#4
  | .shlVxVy x y => wordXyn 0x8#4 x y 0xE#4
  | .sneVxVy x y => wordXyn 0x9#4 x y 0x0#4
  | .ldINnn nnn => wordNnn 0xA#4 nnn
  | .jpV0 nnn => wordNnn 0xB#4 nnn
  | .rnd x nn => wordXnn 0xC#4 x nn
  | .drw x y n => wordXyn 0xD#4 x y (BitVec.ofNat 4 n)
  | .skp x => wordXnn 0xE#4 x 0x9E#8
  | .sknp x => wordXnn 0xE#4 x 0xA1#8
  | .ldVxDt x => wordXnn 0xF#4 x 0x07#8
  | .ldVxK x => wordXnn 0xF#4 x 0x0A#8
  | .ldDtVx x => wordXnn 0xF#4 x 0x15#8
  | .ldStVx x => wordXnn 0xF#4 x 0x18#8
  | .addIVx x => wordXnn 0xF#4 x 0x1E#8
  | .ldFVx x => wordXnn 0xF#4 x 0x29#8
  | .ldBVx x => wordXnn 0xF#4 x 0x33#8
  | .ldMiVx x => wordXnn 0xF#4 x 0x55#8
  | .ldVxMi x => wordXnn 0xF#4 x 0x65#8

/-- One row of the opcode table (spec/opcode_table.json): a word is the row's instruction when its bits
under `mask` are those of `value`. -/
structure OpcodeRow where
  mask : Word
  value : Word
  deriving DecidableEq, Repr

/-- The mask and match of an instruction's row in spec/opcode_table.json. -/
def Instr.row : Instr → OpcodeRow
  | .cls => ⟨0xFFFF, 0x00E0⟩
  | .ret => ⟨0xFFFF, 0x00EE⟩
  | .jpNnn _ => ⟨0xF000, 0x1000⟩
  | .call _ => ⟨0xF000, 0x2000⟩
  | .seVxNn _ _ => ⟨0xF000, 0x3000⟩
  | .sneVxNn _ _ => ⟨0xF000, 0x4000⟩
  | .seVxVy _ _ => ⟨0xF000, 0x5000⟩
  | .ldVxNn _ _ => ⟨0xF000, 0x6000⟩
  | .addVxNn _ _ => ⟨0xF000, 0x7000⟩
  | .ldVxVy _ _ => ⟨0xF00F, 0x8000⟩
  | .orVxVy _ _ => ⟨0xF00F, 0x8001⟩
  | .andVxVy _ _ => ⟨0xF00F, 0x8002⟩
  | .xorVxVy _ _ => ⟨0xF00F, 0x8003⟩
  | .addVxVy _ _ => ⟨0xF00F, 0x8004⟩
  | .subVxVy _ _ => ⟨0xF00F, 0x8005⟩
  | .shrVxVy _ _ => ⟨0xF00F, 0x8006⟩
  | .subnVxVy _ _ => ⟨0xF00F, 0x8007⟩
  | .shlVxVy _ _ => ⟨0xF00F, 0x800E⟩
  | .sneVxVy _ _ => ⟨0xF000, 0x9000⟩
  | .ldINnn _ => ⟨0xF000, 0xA000⟩
  | .jpV0 _ => ⟨0xF000, 0xB000⟩
  | .rnd _ _ => ⟨0xF000, 0xC000⟩
  | .drw _ _ _ => ⟨0xF000, 0xD000⟩
  | .skp _ => ⟨0xF0FF, 0xE09E⟩
  | .sknp _ => ⟨0xF0FF, 0xE0A1⟩
  | .ldVxDt _ => ⟨0xF0FF, 0xF007⟩
  | .ldVxK _ => ⟨0xF0FF, 0xF00A⟩
  | .ldDtVx _ => ⟨0xF0FF, 0xF015⟩
  | .ldStVx _ => ⟨0xF0FF, 0xF018⟩
  | .addIVx _ => ⟨0xF0FF, 0xF01E⟩
  | .ldFVx _ => ⟨0xF0FF, 0xF029⟩
  | .ldBVx _ => ⟨0xF0FF, 0xF033⟩
  | .ldMiVx _ => ⟨0xF0FF, 0xF055⟩
  | .ldVxMi _ => ⟨0xF0FF, 0xF065⟩

/-- The 34 rows of spec/opcode_table.json, in the table's order. -/
def opcodeTable : List OpcodeRow :=
  [⟨0xFFFF, 0x00E0⟩, ⟨0xFFFF, 0x00EE⟩, ⟨0xF000, 0x1000⟩, ⟨0xF000, 0x2000⟩, ⟨0xF000, 0x3000⟩] ++
  [⟨0xF000, 0x4000⟩, ⟨0xF000, 0x5000⟩, ⟨0xF000, 0x6000⟩, ⟨0xF000, 0x7000⟩, ⟨0xF00F, 0x8000⟩] ++
  [⟨0xF00F, 0x8001⟩, ⟨0xF00F, 0x8002⟩, ⟨0xF00F, 0x8003⟩, ⟨0xF00F, 0x8004⟩, ⟨0xF00F, 0x8005⟩] ++
  [⟨0xF00F, 0x8006⟩, ⟨0xF00F, 0x8007⟩, ⟨0xF00F, 0x800E⟩, ⟨0xF000, 0x9000⟩, ⟨0xF000, 0xA000⟩] ++
  [⟨0xF000, 0xB000⟩, ⟨0xF000, 0xC000⟩, ⟨0xF000, 0xD000⟩, ⟨0xF0FF, 0xE09E⟩, ⟨0xF0FF, 0xE0A1⟩] ++
  [⟨0xF0FF, 0xF007⟩, ⟨0xF0FF, 0xF00A⟩, ⟨0xF0FF, 0xF015⟩, ⟨0xF0FF, 0xF018⟩, ⟨0xF0FF, 0xF01E⟩] ++
  [⟨0xF0FF, 0xF029⟩, ⟨0xF0FF, 0xF033⟩, ⟨0xF0FF, 0xF055⟩, ⟨0xF0FF, 0xF065⟩]

end Sys2Proof
end

