-- ==== Sys2Proof/Config.lean ====
section
/-! DEFINITION. The implementation parameters (spec/00_scope.md R7) and the free values: what the spec
fixes for one machine, and what it leaves open (spec/93_implementation_defined.md). A constant declared
`opaque` has no body: nothing can evaluate it, so a statement holds whatever its value is. -/

namespace Sys2Proof

/-- The two settings of the open parameter `ALU_VF_READ` (spec/41_register_alu.md R90): which value of
`V[15]` the destination computation of a flag-writing ALU instruction reads. -/
inductive AluVfRead where
  /-- A register that is `V[15]` reads the flag just written. -/
  | afterFlag
  /-- The operands are latched once, before the flag is written. -/
  | beforeFlag
  deriving DecidableEq, Repr, Inhabited

/-- The two events of the arbiter (spec/60_exceptions.md R148). -/
inductive TickKind where
  /-- `InstrTick` (spec/30_encoding.md R72). -/
  | instr
  /-- `FrameTick` (spec/60_exceptions.md R142). -/
  | frame
  deriving DecidableEq, Repr, Inhabited

/-- What one poll of the Input source delivers (R141, R145, R147): the pair the drain ends with and the
quit signal. -/
structure Poll where
  quit : Bool
  keyActive : Bool
  key : BitVec 4
  deriving DecidableEq, Repr, Inhabited

/-- The two settings of the parameter `MEM_SIZE` (R7, spec/92_eei_decisions.md D1, P2). -/
inductive MemSize where
  /-- The source's value, the default. -/
  | bytes4095
  /-- The conventional size, "admitted as the alternative setting". -/
  | bytes4096
  deriving DecidableEq, Repr

/-- The number of bytes of memory. -/
def MemSize.bytes : MemSize → Nat
  | .bytes4095 => 4095
  | .bytes4096 => 4096

/-- The 80 bytes of the parameter `FONT`, glyph `d` at `5 * d` (R7, spec/20_memory.md R41). -/
abbrev Font := Vector Byte 80

/-- The parameters of one machine: every row of R7's table that it marks "parameter". Every operation
that depends on one takes it from here, and every statement is about all of them (log entry 22). -/
structure Params where
  /-- `MEM_SIZE`. -/
  memSize : MemSize
  /-- `FONT`. -/
  font : Font
  /-- `INSTR_PERIOD_MS`, timing only (R149). -/
  instrPeriodMs : Nat
  /-- `FRAME_PERIOD_MS`, timing only (R149). -/
  framePeriodMs : Nat
  /-- `ALU_VF_READ` (R90). -/
  aluVfRead : AluVfRead
  deriving DecidableEq, Repr

/-- `MEM_SIZE` as a number of bytes. -/
def Params.size (p : Params) : Nat := p.memSize.bytes

/-- `PROG_BASE` (R7). -/
def Config.progBase : Nat := 0x200

/-- `PROG_MAX = MEM_SIZE - 0x200` (R7). -/
def Params.progMax (p : Params) : Nat := p.size - Config.progBase

/-- `FONT_GLYPH_BYTES` (R7). -/
def Config.glyphBytes : Nat := 5

/-- `GRID_W` (R7). -/
def Config.gridWidth : Nat := 64

/-- `GRID_H` (R7). -/
def Config.gridHeight : Nat := 32

/-- The default of `FONT`, row by row of spec/93_implementation_defined.md G1. -/
def Config.fontBytes : List Byte :=
  [0xF0, 0x90, 0x90, 0x90, 0xF0] ++ [0x20, 0x60, 0x20, 0x20, 0x70] ++
  [0xF0, 0x10, 0xF0, 0x80, 0xF0] ++ [0xF0, 0x10, 0xF0, 0x10, 0xF0] ++
  [0x90, 0x90, 0xF0, 0x10, 0x10] ++ [0xF0, 0x80, 0xF0, 0x10, 0xF0] ++
  [0xF0, 0x80, 0xF0, 0x90, 0xF0] ++ [0xF0, 0x10, 0x20, 0x40, 0x40] ++
  [0xF0, 0x90, 0xF0, 0x90, 0xF0] ++ [0xF0, 0x90, 0xF0, 0x10, 0xF0] ++
  [0xF0, 0x90, 0xF0, 0x90, 0x90] ++ [0xE0, 0x90, 0xE0, 0x90, 0xE0] ++
  [0xF0, 0x80, 0x80, 0x80, 0xF0] ++ [0xE0, 0x90, 0x90, 0x90, 0xE0] ++
  [0xF0, 0x80, 0xF0, 0x80, 0xF0] ++ [0xF0, 0x80, 0xF0, 0x80, 0x80]

/-- The default of `FONT`.
PRESUMED (log entry 2), unsafe for what is claimed about the default: G1 takes the bytes from general
knowledge. -/
def Config.defaultFont : Font := ⟨Config.fontBytes.toArray, by decide⟩

/-- `ALU_VF_READ` (R7, R90), OPEN: no setting is chosen (log entry 3), safe. -/
opaque Config.aluVfRead : AluVfRead

/-- The parameters that the machine has after reset: the defaults of R7, and the open setting.
DESIGN CHOICE (log entry 1): `MEM_SIZE` has its default. -/
def Config.params : Params where
  memSize := .bytes4095
  font := Config.defaultFont
  instrPeriodMs := 2
  framePeriodMs := 17
  aluVfRead := Config.aluVfRead

/-- `Rand8()` (spec/60_exceptions.md R146): the byte of the n-th draw, free (log entry 4), safe. -/
opaque Config.rand8 : Nat → Byte

/-- What the n-th poll delivers (R145, R147), free (log entry 5), safe. -/
opaque Config.poll : Nat → Poll

/-- Which event the arbiter gives first after reset (R148), free (log entry 6), safe. -/
opaque Config.firstTick : TickKind

/-- The n-th run of events of one kind is `Config.runLength n + 1` events long (R148), free (log entry
6), safe. Every sequence in which both kinds occur infinitely often is cut into such runs, and every
choice of the lengths gives such a sequence. -/
opaque Config.runLength : Nat → Nat

end Sys2Proof
end

