-- ==== Sys2Proof/Machine/State.lean ====
section
/-! DEFINITION. The state of the machine (spec/10_state.md) as plain data, the reasons a step can stop,
and the state after reset (spec/70_reset_and_hazards.md R160, R162). -/

namespace Sys2Proof.Machine

/-- Memory `M` (R32, R40): the bytes that differ from the reset contents, as (address, byte) pairs in
rising order of address (`Memory.wf`). An address not listed reads as `Memory.initial`. -/
abbrev Memory := List Host.Cell

/-- The pixel grid (R29): 32 rows of 64 one-bit cells; the cell of column 0 is a row's most
significant bit, so that a row reads as the screen does. -/
abbrev Grid := Vector (BitVec 64) 32

/-- The four fault kinds of spec/60_exceptions.md R130 with what each records beside `pc_f`. -/
inductive FaultCause where
  /-- Code 1 (R131): raised by the cycle on a word that decodes to no instruction. -/
  | unsupportedInstruction (word : Word)
  /-- Code 2 (R132): raised by the fetch (no word), DXYN, FX33, FX55 and FX65. -/
  | memoryOutOfRange (addr : Nat) (word : Option Word)
  /-- Code 3 (R133): raised by 2NNN. -/
  | stackOverflow (sp : Word) (word : Word)
  /-- Code 4 (R134): raised by 00EE. -/
  | stackUnderflow (word : Word)
  deriving DecidableEq, Repr

/-- The fault record `rec` of R135: the cause and `pc_f`. -/
structure FaultRecord where
  cause : FaultCause
  pcF : Word
  deriving DecidableEq, Repr

/-- `status` (R31). -/
inductive Status where
  | running
  | faulted (record : FaultRecord)
  | terminated
  deriving DecidableEq, Repr

/-- The arbiter's bookkeeping (R34, spec/60_exceptions.md R148): which event comes next, how many more
events of that kind come after it before the other kind's turn, and how many runs have been drawn. -/
structure Arbiter where
  turn : TickKind
  left : Nat
  runs : Nat
  deriving DecidableEq, Repr

/-- What one frame tick gives its collaborators (spec/60_exceptions.md R141 to R144): the tone signal,
and the grid handed to the Display sink, `none` where the tick's render is skipped (R147). -/
structure FrameOutput where
  tone : Bool
  display : Option Grid
  deriving DecidableEq, Repr

/-- The state of the machine (R36), the arbiter's bookkeeping (R34), the outputs of the last frame tick
(R141) and two counters of the model's own that supply free values. -/
structure State where
  /-- `V[0]` to `V[15]` (R20). -/
  v : Vector Byte 16
  /-- `I` (R24). -/
  i : Word
  /-- `PC` (R25). -/
  pc : Word
  /-- `SP`, the byte depth of the call stack (R26). -/
  sp : Word
  /-- `DT` (R27). -/
  dt : Byte
  /-- `ST` (R28). -/
  st : Byte
  /-- `grid` (R29). -/
  grid : Grid
  /-- `key_active` (R30). -/
  keyActive : Bool
  /-- `key` (R30). -/
  key : BitVec 4
  /-- `status` (R31). -/
  status : Status
  /-- `M` (R32). -/
  mem : Memory
  /-- The arbiter's bookkeeping (R34, R148). -/
  arbiter : Arbiter
  /-- The outputs of the last frame tick, `none` before the first one (R141; log entry 10). -/
  output : Option FrameOutput
  /-- The parameters of this machine (R7), which no step changes; R35 says that they are not state, and
  they stand here so that every operation takes them as an argument (log entry 22). -/
  params : Params
  /-- The model's own: how many random bytes have been drawn (log entry 4). -/
  randCount : Nat
  /-- The model's own: how many polls have been made (log entry 5). -/
  pollCount : Nat
  deriving DecidableEq, Repr

/-- Why the machine takes no step. Both say that the run has ended (R135, R147, R155), and both are
safe: nothing is claimed after the end. An instruction that faults does not answer these: it takes the
fault, a next state whose `status` holds the record (log entry 8). -/
inductive Fault where
  /-- Raised by `step` in a state whose `status` is `Faulted(rec)`: no tick occurs (R135). Safe. -/
  | coreFaulted (record : FaultRecord)
  /-- Raised by `step` in a state whose `status` is `Terminated`: no tick occurs (R147). Safe. -/
  | coreTerminated
  deriving DecidableEq, Repr

/-- What the model refuses. -/
inductive Refusal where
  /-- An instruction without a meaning: no arm of `exec` answers it any more. Safe. -/
  | notModelled (mnemonic : String)
  /-- Raised by `boot` for an image of more than `PROG_MAX` bytes: "an oversize image is refused and the
  core does not start" (spec/70_reset_and_hazards.md R161). Safe. -/
  | oversizeImage (length : Nat)
  deriving DecidableEq, Repr

/-- The state of a machine with parameters `p` right after reset, before an image is loaded (R160, R162,
R36). The arbiter's first event
and first run are free (log entry 6); `runs`, `output` and the two counters are the model's own values
(log entries 6, 7 and 10). -/
def State.resetWith (p : Params) : State where
  v := Vector.replicate 16 0
  i := 0
  pc := 0x200
  sp := 0
  dt := 0
  st := 0
  grid := Vector.replicate 32 0
  keyActive := false
  key := 0
  status := .running
  mem := []
  arbiter := { turn := Config.firstTick, left := Config.runLength 0, runs := 1 }
  output := none
  params := p
  randCount := 0
  pollCount := 0

/-- The state right after reset of the machine with the default parameters (R7). -/
def State.reset : State := State.resetWith Config.params

end Sys2Proof.Machine
end

