-- ==== Sys2Proof/Machine/Ops.lean ====
section
/-! DEFINITION. The named operations over memory, registers, the program counter and the grid, and the
taking of a fault. Every access of a meaning goes through these. -/

namespace Sys2Proof.Machine

/-- What a tick answers. -/
abbrev Result := Host.Outcome State Fault Refusal

/-! ### Memory (spec/20_memory.md) -/

/-- The reset contents (R41, R160): the font at 0..79 and 0 everywhere else. It is what an address that
the list does not hold reads as. -/
def Memory.initial (p : Params) (a : Nat) : Byte := p.font.toList.getD a 0

/-- The byte at an address. -/
def Memory.read (p : Params) : Memory → Nat → Byte
  | [], a => Memory.initial p a
  | (b, v) :: rest, a => if a = b then v else Memory.read p rest a

/-- Set the byte at an address, keeping the canonical form. -/
def Memory.write (p : Params) : Memory → Nat → Byte → Memory
  | [], a, v => if v = Memory.initial p a then [] else [(a, v)]
  | (b, u) :: rest, a, v =>
    if a < b then
      if v = Memory.initial p a then (b, u) :: rest else (a, v) :: (b, u) :: rest
    else if a = b then
      if v = Memory.initial p a then rest else (a, v) :: rest
    else (b, u) :: Memory.write p rest a v

/-- Set consecutive bytes from an address up, in order. -/
def Memory.writeBytes (p : Params) : Memory → Nat → List Byte → Memory
  | m, _, [] => m
  | m, a, v :: vs => Memory.writeBytes p (Memory.write p m a v) (a + 1) vs

/-- The canonical form, from a lowest address `lo` up: addresses strictly rising and inside memory, and
no entry equal to what an unlisted address reads as. -/
def Memory.wfFrom (p : Params) : Nat → Memory → Bool
  | _, [] => true
  | lo, (a, v) :: rest =>
    lo ≤ a && a < p.size && v != Memory.initial p a && Memory.wfFrom p (a + 1) rest

/-- The canonical form of memory. -/
def Memory.wf (p : Params) (m : Memory) : Bool := Memory.wfFrom p 0 m

/-- A big-endian 16-bit read (spec/00_scope.md R11, R43, R44). -/
def Memory.readWord (p : Params) (m : Memory) (a : Nat) : Word :=
  wordOfBytes (m.read p a) (m.read p (a + 1))

/-- A big-endian 16-bit write (spec/00_scope.md R11, R44). -/
def Memory.writeWord (p : Params) (m : Memory) (a : Nat) (w : Word) : Memory :=
  m.writeBytes p a [highByte w, lowByte w]

/-- The byte at an address of the machine. -/
def State.byteAt (s : State) (a : Nat) : Byte := s.mem.read s.params a

/-- The big-endian word at an address of the machine. -/
def State.wordAt (s : State) (a : Nat) : Word := s.mem.readWord s.params a

/-- Is the machine's memory in canonical form? -/
def State.memWf (s : State) : Bool := s.mem.wf s.params

/-- Store consecutive bytes from an address up, in order. -/
def State.store (a : Nat) (vs : List Byte) (s : State) : State :=
  { s with mem := s.mem.writeBytes s.params a vs }

/-- Store a big-endian word. -/
def State.storeWord (a : Nat) (w : Word) (s : State) : State :=
  { s with mem := s.mem.writeWord s.params a w }

/-! ### Registers (spec/10_state.md) -/

/-- Read `V[x]` (R20). -/
def State.reg (s : State) (x : RegIdx) : Byte := s.v[x.val]

/-- Write `V[x]` (R20). -/
def State.setReg (s : State) (x : RegIdx) (b : Byte) : State := { s with v := s.v.set x.val b }

/-- The registers `V[0]` to `V[x]`, in order: the inclusive range of FX55 and FX65
(spec/30_encoding.md R63). -/
def regRange (x : RegIdx) : List RegIdx := (List.finRange 16).take (x.val + 1)

/-- Load each register of a list from `base` plus its number (spec/42_index_memory.md R110). -/
def State.loadRegs (base : Nat) : List RegIdx → State → State
  | [], s => s
  | r :: rs, s => State.loadRegs base rs (s.setReg r (s.byteAt (base + r.val)))

/-! ### The program counter -/

/-- `PC <- (PC + 2) mod 0x10000`: the cycle's advance and the `skip` of spec/00_scope.md R11
(spec/30_encoding.md R72). -/
def State.advance (s : State) : State := { s with pc := s.pc + 2 }

/-- `skip` where a condition holds. -/
def State.skipIf (c : Bool) (s : State) : State := if c then s.advance else s

/-- `PC <- target`. -/
def State.jump (target : Word) (s : State) : State := { s with pc := target }

/-! ### The pixel grid (spec/43_display.md R112) -/

/-- `grid[px][py]`; false outside the grid. -/
def Grid.pixel (g : Grid) (px py : Nat) : Bool :=
  if h : py < 32 then g[py].getMsbD px else false

/-- `grid[px][py] <- grid[px][py] ^ bit`; nothing outside the grid. -/
def Grid.xorPixel (g : Grid) (px py : Nat) (bit : Bool) : Grid :=
  if h : py < 32 then
    if bit && decide (px < 64) then g.set py (g[py] ^^^ BitVec.twoPow 64 (63 - px)) else g
  else g

/-- Every pixel 0 (R113). -/
def Grid.clear : Grid := Vector.replicate 32 0

/-- One sprite row (R114): its bits from column `x0` on, most significant first, stopping at the right
edge ("stop the row early"). The pair is the grid and whether a set pixel has been cleared so far. -/
def Grid.drawBits (row : Byte) (x0 py : Nat) : List Nat → Grid × Bool → Grid × Bool
  | [], acc => acc
  | b :: bs, acc =>
    if Config.gridWidth ≤ x0 + b then acc
    else
      Grid.drawBits row x0 py bs
        (acc.1.xorPixel (x0 + b) py (row.getMsbD b),
          acc.2 || (row.getMsbD b && acc.1.pixel (x0 + b) py))

/-- The rows of a sprite (R114): row `r` is the byte at `base + r` and goes to grid row `y0 + r`. -/
def Grid.drawRows (byteAt : Nat → Byte) (base x0 y0 : Nat) : List Nat → Grid × Bool → Grid × Bool
  | [], acc => acc
  | r :: rs, acc =>
    Grid.drawRows byteAt base x0 y0 rs
      (Grid.drawBits (byteAt (base + r)) x0 (y0 + r) (List.range 8) acc)

/-! ### Faults (spec/60_exceptions.md) -/

/-- Taking a fault (R135, R136), from the state before the tick: `status` holds the record and nothing
else changes, so that `PC` is `pc_f`. There is no return from a fault (R138). -/
def State.takeFault (cause : FaultCause) (s : State) : State :=
  { s with status := .faulted { cause := cause, pcF := s.pc } }

/-- The code of a fault (R130). -/
def FaultCause.code : FaultCause → Nat
  | .unsupportedInstruction _ => 1
  | .memoryOutOfRange _ _ => 2
  | .stackOverflow _ _ => 3
  | .stackUnderflow _ => 4

/-- The bounds check of spec/20_memory.md R48, R49: an instruction of word `w` whose accesses are the
`len` bytes from `base` up answers `t` when they all exist, and takes `MemoryOutOfRange` for the first
that does not, from the state `s` before the tick (R136, R137). -/
def inMemory (base len : Nat) (w : Word) (s t : State) : Result :=
  if len = 0 ∨ base + len ≤ s.params.size then .next t
  else .next (s.takeFault (.memoryOutOfRange (max base s.params.size) (some w)))

end Sys2Proof.Machine
end

