-- ==== Sys2Proof/Machine/Operands.lean ====
section
/-! DEFINITION. The operand forms (spec/30_encoding.md R63, spec/42_index_memory.md R111): what each
operand of an instruction is in a state. -/

namespace Sys2Proof.Machine

/-- An address operand `zext_16(nnn)` (R63). -/
def addrOperand (nnn : BitVec 12) : Word := nnn.setWidth 16

/-- A register as a 16-bit operand, zero-extended (R63, spec/40_control.md R87). -/
def State.regWide (s : State) (x : RegIdx) : Word := (s.reg x).setWidth 16

/-- The address in `I`, an unbounded natural (spec/20_memory.md R49). -/
def State.indexAddr (s : State) : Nat := s.i.toNat

/-- The address of the slot the next push writes (spec/20_memory.md R59). -/
def State.pushAddr (s : State) : Nat := s.params.size - 2 - s.sp.toNat

/-- The address of the slot on top of the stack (spec/20_memory.md R59). -/
def State.popAddr (s : State) : Nat := s.params.size - s.sp.toNat

/-- The address of the glyph of a register's low digit, `(V[x] & 0x0F) * 5`
(spec/42_index_memory.md R107). -/
def State.glyphAddr (s : State) (x : RegIdx) : Word :=
  (s.reg x &&& 0x0F#8).setWidth 16 * BitVec.ofNat 16 Config.glyphBytes

/-- Is a key active, and is it the one in `V[x]`, compared as 8 bits (spec/44_timer_input.md R116)? -/
def State.keyIs (s : State) (x : RegIdx) : Bool := s.keyActive && s.reg x == s.key.setWidth 8

/-- Is a key active, and is it another than the one in `V[x]` (spec/44_timer_input.md R117)? -/
def State.keyIsNot (s : State) (x : RegIdx) : Bool := s.keyActive && s.reg x != s.key.setWidth 8

/-- The column of a sprite's origin, which wraps (spec/43_display.md R114). -/
def State.originX (s : State) (x : RegIdx) : Nat := (s.reg x).toNat % Config.gridWidth

/-- The row of a sprite's origin, which wraps (spec/43_display.md R114). -/
def State.originY (s : State) (y : RegIdx) : Nat := (s.reg y).toNat % Config.gridHeight

/-- How many rows of an `n`-row sprite are drawn: those above the bottom edge
(spec/43_display.md R114). -/
def State.rowsDrawn (s : State) (y : RegIdx) (n : Nat) : Nat :=
  min n (Config.gridHeight - s.originY y)

/-- An operand of the destination computation of a flag-writing ALU instruction, read from the state
`s1` that the flag write left (spec/41_register_alu.md R90): `before` is what the register held when
the instruction began. The setting matters for `V[15]` only. -/
def operandAfterFlag (setting : AluVfRead) (r : RegIdx) (before : Byte) (s1 : State) : Byte :=
  if r = VF then
    match setting with
    | .afterFlag => s1.reg r
    | .beforeFlag => before
  else s1.reg r

end Sys2Proof.Machine
end

