-- ==== Sys2Proof/Machine/Flags.lean ====
section
/-! DEFINITION. The flag computations (spec/41_register_alu.md, spec/42_index_memory.md R106,
spec/43_display.md R114) and the order in which a flag and a destination are written (R90). A flag
is 0 or 1 (spec/10_state.md R22). -/

namespace Sys2Proof.Machine

/-- A condition as a flag value. -/
def flagOf (c : Bool) : Byte := if c then 1 else 0

/-- 8XY4: 1 exactly when the true sum exceeds 255 (R91, R98). -/
def carryFlag (a b : Byte) : Byte := flagOf (decide (255 < a.toNat + b.toNat))

/-- 8XY5 (and 8XY7 with its operands exchanged): 1 exactly when the minuend is strictly greater
(R91, R99, R101, spec/90_conflicts.md C2). -/
def greaterFlag (minuend subtrahend : Byte) : Byte :=
  flagOf (decide (subtrahend.toNat < minuend.toNat))

/-- 8XY6: the bit shifted out to the right (R100). -/
def lowBitFlag (a : Byte) : Byte := a &&& 1

/-- 8XYE: the bit shifted out to the left (R102). -/
def topBitFlag (a : Byte) : Byte := a >>> 7

/-- FX1E: do bits 15:12 of the new `I` hold a one (R106)? -/
def indexOverflows (i : Word) : Bool := i.extractLsb' 12 4 != 0

/-- `V[15] <- 1` where a condition holds; otherwise `V[15]` is left unchanged (R106, the spec's decision
D9). -/
def State.setFlagIf (c : Bool) (s : State) : State := if c then s.setReg VF 1 else s

/-- The shared shape of the five flag-writing ALU instructions (R90): operands, then the flag into
`V[15]`, then the destination, whose operands are read as `setting` says. -/
def State.aluWith (setting : AluVfRead) (flag result : Byte → Byte → Byte) (x y : RegIdx)
    (s : State) : State :=
  let a := s.reg x
  let b := s.reg y
  let s1 := s.setReg VF (flag a b)
  s1.setReg x (result (operandAfterFlag setting x a s1) (operandAfterFlag setting y b s1))

/-- `alu(flag_fn, result_fn)` of R90 at the machine's setting of `ALU_VF_READ`, which is open
(log entry 3). -/
def State.alu (flag result : Byte → Byte → Byte) (x y : RegIdx) (s : State) : State :=
  s.aluWith s.params.aluVfRead flag result x y

end Sys2Proof.Machine
end

