-- ==== Sys2Proof/Machine/Control.lean ====
section
/-! DEFINITION. Control transfer (spec/40_control.md): RET, JP, CALL, the four skips, JP V0. A meaning
takes the state before the tick, makes the cycle's advance itself (spec/30_encoding.md R72), and
takes a fault from the state before the tick (spec/60_exceptions.md R136). -/

namespace Sys2Proof.Machine

/-- 00EE (R80). -/
def execRet (s : State) : Result :=
  if s.sp.toNat < 2 then .next (s.takeFault (.stackUnderflow (encode .ret)))
  else .next { s with pc := s.wordAt s.popAddr, sp := s.sp - 2 }

/-- 1NNN (R81). -/
def execJpNnn (nnn : BitVec 12) (s : State) : Result :=
  .next (s.advance.jump (addrOperand nnn))

/-- 2NNN (R82): the address pushed is that of the instruction after the call. -/
def execCall (nnn : BitVec 12) (s : State) : Result :=
  if s.params.size < s.sp.toNat + 2 then
    .next (s.takeFault (.stackOverflow s.sp (encode (.call nnn))))
  else
    .next { s.storeWord s.pushAddr s.advance.pc with
      sp := s.sp + 2
      pc := addrOperand nnn }

/-- 3XNN (R83). -/
def execSeVxNn (x : RegIdx) (nn : Byte) (s : State) : Result :=
  .next (s.advance.skipIf (s.reg x == nn))

/-- 4XNN (R84). -/
def execSneVxNn (x : RegIdx) (nn : Byte) (s : State) : Result :=
  .next (s.advance.skipIf (s.reg x != nn))

/-- 5XY0 (R85). -/
def execSeVxVy (x y : RegIdx) (s : State) : Result :=
  .next (s.advance.skipIf (s.reg x == s.reg y))

/-- 9XY0 (R86). -/
def execSneVxVy (x y : RegIdx) (s : State) : Result :=
  .next (s.advance.skipIf (s.reg x != s.reg y))

/-- BNNN (R87): the offset register is always `V[0]`, and the sum is not masked to 12 bits. -/
def execJpV0 (nnn : BitVec 12) (s : State) : Result :=
  .next (s.advance.jump (addrOperand nnn + s.regWide 0))

end Sys2Proof.Machine
end

