-- ==== Sys2Proof/Machine/Display.lean ====
section
/-! DEFINITION. The pixel grid: clear and draw (spec/43_display.md). -/

namespace Sys2Proof.Machine

/-- 00E0 (R113). -/
def execCls (s : State) : Result := .next { s.advance with grid := Grid.clear }

/-- The grid after DXYN and whether any set pixel was cleared (R114); the coordinates are read before
`V[15]` is written. -/
def State.drawn (s : State) (x y : RegIdx) (n : Nat) : Grid × Bool :=
  Grid.drawRows s.byteAt s.indexAddr (s.originX x) (s.originY y) (List.range (s.rowsDrawn y n))
    (s.grid, false)

/-- DXYN (R114): rows cut off at the bottom are not read, so they cannot fault, and `V[15]` is written
once, at the end, even when nothing is drawn. -/
def execDrw (x y : RegIdx) (n : Nat) (s : State) : Result :=
  inMemory s.indexAddr (s.rowsDrawn y n) (encode (.drw x y n)) s
    ({ s.advance with grid := (s.drawn x y n).1 }.setReg VF (flagOf (s.drawn x y n).2))

end Sys2Proof.Machine
end

