-- ==== Sys2Proof/Machine/IndexMemory.lean ====
section
/-! DEFINITION. The index register and memory transfers (spec/42_index_memory.md). FX33, FX55 and FX65
check every address before the first write and leave `I` as it is. -/

namespace Sys2Proof.Machine

/-- ANNN (R105). -/
def execLdINnn (nnn : BitVec 12) (s : State) : Result :=
  .next { s.advance with i := addrOperand nnn }

/-- FX1E (R106): the flag comes from the new `I`, and `V[15]` keeps its value when bits 15:12 of it are
all zero. -/
def execAddIVx (x : RegIdx) (s : State) : Result :=
  let i' := s.i + s.regWide x
  .next ({ s.advance with i := i' }.setFlagIf (indexOverflows i'))

/-- FX29 (R107). -/
def execLdFVx (x : RegIdx) (s : State) : Result :=
  .next { s.advance with i := s.glyphAddr x }

/-- The three decimal digits of a byte, hundreds first (R108). -/
def decimalDigits (v : Byte) : List Byte := [v / 100, v / 10 % 10, v % 10]

/-- FX33 (R108). -/
def execLdBVx (x : RegIdx) (s : State) : Result :=
  inMemory s.indexAddr 3 (encode (.ldBVx x)) s
    (s.advance.store s.indexAddr (decimalDigits (s.reg x)))

/-- FX55 (R109). -/
def execLdMiVx (x : RegIdx) (s : State) : Result :=
  inMemory s.indexAddr (x.val + 1) (encode (.ldMiVx x)) s
    (s.advance.store s.indexAddr ((regRange x).map s.reg))

/-- FX65 (R110). -/
def execLdVxMi (x : RegIdx) (s : State) : Result :=
  inMemory s.indexAddr (x.val + 1) (encode (.ldVxMi x)) s
    (s.advance.loadRegs s.indexAddr (regRange x))

end Sys2Proof.Machine
end

