-- ==== Sys2Proof/Machine/RegisterAlu.lean ====
section
/-! DEFINITION. Register loads and arithmetic (spec/41_register_alu.md): unsigned 8-bit values that wrap
modulo 256 (R91). -/

namespace Sys2Proof.Machine

/-- 6XNN (R92). -/
def execLdVxNn (x : RegIdx) (nn : Byte) (s : State) : Result :=
  .next (s.advance.setReg x nn)

/-- 7XNN (R93): no flag. -/
def execAddVxNn (x : RegIdx) (nn : Byte) (s : State) : Result :=
  .next (s.advance.setReg x (s.reg x + nn))

/-- 8XY0 (R94). -/
def execLdVxVy (x y : RegIdx) (s : State) : Result :=
  .next (s.advance.setReg x (s.reg y))

/-- 8XY1 (R95): no flag. -/
def execOrVxVy (x y : RegIdx) (s : State) : Result :=
  .next (s.advance.setReg x (s.reg x ||| s.reg y))

/-- 8XY2 (R96): no flag. -/
def execAndVxVy (x y : RegIdx) (s : State) : Result :=
  .next (s.advance.setReg x (s.reg x &&& s.reg y))

/-- 8XY3 (R97): no flag. -/
def execXorVxVy (x y : RegIdx) (s : State) : Result :=
  .next (s.advance.setReg x (s.reg x ^^^ s.reg y))

/-- 8XY4 (R98). -/
def execAddVxVy (x y : RegIdx) (s : State) : Result :=
  .next (s.advance.alu carryFlag (fun a b => a + b) x y)

/-- 8XY5 (R99). -/
def execSubVxVy (x y : RegIdx) (s : State) : Result :=
  .next (s.advance.alu greaterFlag (fun a b => a - b) x y)

/-- 8XY6 (R100): `y` is not read. -/
def execShrVxVy (x y : RegIdx) (s : State) : Result :=
  .next (s.advance.alu (fun a _ => lowBitFlag a) (fun a _ => a >>> 1) x y)

/-- 8XY7 (R101). -/
def execSubnVxVy (x y : RegIdx) (s : State) : Result :=
  .next (s.advance.alu (fun a b => greaterFlag b a) (fun a b => b - a) x y)

/-- 8XYE (R102): `y` is not read. -/
def execShlVxVy (x y : RegIdx) (s : State) : Result :=
  .next (s.advance.alu (fun a _ => topBitFlag a) (fun a _ => a <<< 1) x y)

/-- CXNN (R103) with the byte that was drawn. -/
def State.rndWith (draw : Byte) (x : RegIdx) (nn : Byte) (s : State) : State :=
  { s.setReg x (draw &&& nn) with randCount := s.randCount + 1 }

/-- CXNN (R103): the byte is the next draw, a free value (log entry 4). -/
def execRnd (x : RegIdx) (nn : Byte) (s : State) : Result :=
  .next (s.advance.rndWith (Config.rand8 s.randCount) x nn)

end Sys2Proof.Machine
end

