-- ==== Sys2Proof/Machine/TimerInput.lean ====
section
/-! DEFINITION. Key input and timers (spec/44_timer_input.md). The key latch is read as the last frame
tick's poll left it (R122). -/

namespace Sys2Proof.Machine

/-- EX9E (R116). -/
def execSkp (x : RegIdx) (s : State) : Result := .next (s.advance.skipIf (s.keyIs x))

/-- EXA1 (R117): with no key active it does not skip. -/
def execSknp (x : RegIdx) (s : State) : Result := .next (s.advance.skipIf (s.keyIsNot x))

/-- FX07 (R118). -/
def execLdVxDt (x : RegIdx) (s : State) : Result := .next (s.advance.setReg x s.dt)

/-- FX15 (R119). -/
def execLdDtVx (x : RegIdx) (s : State) : Result := .next { s.advance with dt := s.reg x }

/-- FX18 (R120). -/
def execLdStVx (x : RegIdx) (s : State) : Result := .next { s.advance with st := s.reg x }

/-- FX0A (R121): with no key active the advance is taken back, so that the same word is fetched at the
next instruction tick. -/
def execLdVxK (x : RegIdx) (s : State) : Result :=
  if s.keyActive then .next (s.advance.setReg x (s.key.setWidth 8))
  else .next (s.advance.jump (s.advance.pc - 2))

end Sys2Proof.Machine
end

