-- ==== Sys2Proof/Machine/Cycle.lean ====
section
/-! DEFINITION. The two events of the run loop and the arbiter between them: the instruction tick
(spec/30_encoding.md R72), the frame tick (spec/60_exceptions.md R142) and R148. -/

namespace Sys2Proof.Machine

/-- The fetch (R72, spec/20_memory.md R43): the word at `PC`, or the first of its two addresses that
does not exist (spec/60_exceptions.md R132). -/
def State.fetch (s : State) : Except Nat Word :=
  if s.pc.toNat + 1 < s.params.size then .ok (s.wordAt s.pc.toNat)
  else .error (max s.pc.toNat s.params.size)

/-- `InstrTick` (R72). The faults come in the order of spec/60_exceptions.md R137: the fetch's, the
unsupported word's, the instruction's own. -/
def instrTick (s : State) : Result :=
  match s.fetch with
  | .error addr => .next (s.takeFault (.memoryOutOfRange addr none))
  | .ok w =>
    match decode w with
    | .error _ => .next (s.takeFault (.unsupportedInstruction w))
    | .ok i => exec i s

/-- "decremented by 1 per frame tick while > 0, floor 0" (spec/60_exceptions.md R151). -/
def countDown (t : Byte) : Byte := if t = 0 then 0 else t - 1

/-- `FrameTick` (R142) whose poll delivers `p`: tone, timers, poll, render, in that order. The tone is
that of `ST` before its decrement (R144); `key` keeps its value when no key is active (R145); a quit
ends the run and skips the render (R147). -/
def State.frameTickWith (p : Poll) (s : State) : State :=
  { s with
    dt := countDown s.dt
    st := countDown s.st
    keyActive := p.keyActive
    key := if p.keyActive then p.key else s.key
    status := if p.quit then .terminated else s.status
    output := some {
      tone := s.st != 0
      display := if p.quit then none else some s.grid }
    pollCount := s.pollCount + 1 }

/-- `FrameTick` (R142): what the poll delivers is a free value (log entry 5). -/
def State.frameTick (s : State) : State := s.frameTickWith (Config.poll s.pollCount)

/-- The other kind of event. -/
def otherTick : TickKind → TickKind
  | .instr => .frame
  | .frame => .instr

/-- The arbiter after one event (R148): the current run goes on while events are left of it, and then
the other kind has its turn, for a run of free length. -/
def Arbiter.next (a : Arbiter) : Arbiter :=
  if a.left = 0 then
    { turn := otherTick a.turn, left := Config.runLength a.runs, runs := a.runs + 1 }
  else { a with left := a.left - 1 }

/-- After an event: the arbiter goes on while the machine runs. A machine that has just stopped keeps
everything but its `status` (R136), the arbiter's bookkeeping included. -/
def State.afterTick (s : State) : State :=
  match s.status with
  | .running => { s with arbiter := s.arbiter.next }
  | .faulted _ => s
  | .terminated => s

/-- Put `afterTick` behind what a tick answers. -/
def afterTickResult : Result → Result
  | .next s => .next s.afterTick
  | .fault r => .fault r
  | .refused r => .refused r

/-- One event of a running machine, as the arbiter says (R148). -/
def State.event (s : State) : Result :=
  match s.arbiter.turn with
  | .instr => afterTickResult (instrTick s)
  | .frame => afterTickResult (.next s.frameTick)

end Sys2Proof.Machine
end

