-- ==== Sys2Proof/Machine/Step.lean ====
section
/-! DEFINITION. One step of the machine, and how the host places an instruction where the next step
fetches it. -/

namespace Sys2Proof.Machine

/-- One event (spec/60_exceptions.md R148) while `status` is `Running`; no tick occurs once the machine
has faulted (R135) or the run has been quit (R147). -/
def step (s : State) : Host.Outcome State Fault Refusal :=
  match s.status with
  | .running => s.event
  | .faulted record => .fault (.coreFaulted record)
  | .terminated => .fault .coreTerminated

/-- The instruction word stored at `PC`, high byte first (spec/20_memory.md R43), in a running machine
whose next event is an instruction tick (log entry 9). -/
def State.withFetchWord (s : State) (nbits w : Nat) : State :=
  { s.storeWord s.pc.toNat (tableWord nbits w) with
    status := .running
    arbiter := { s.arbiter with turn := .instr } }

end Sys2Proof.Machine
end

