-- ==== Sys2Proof/Machine/Boot.lean ====
section
/-! DEFINITION. Reset with a program image (spec/70_reset_and_hazards.md R160, R161). -/

namespace Sys2Proof.Machine

/-- `Reset(image)` (R160) of a machine with parameters `p`: byte `k` of the image at `0x200 + k`, and an
image longer than `PROG_MAX` bytes refused (R161). -/
def bootWith (p : Params) (image : List Byte) : Result :=
  if image.length ≤ p.progMax then .next ((State.resetWith p).store Config.progBase image)
  else .refused (.oversizeImage image.length)

/-- `Reset(image)` of the machine with the default parameters. -/
def boot (image : List Byte) : Result := bootWith Config.params image

end Sys2Proof.Machine
end

