-- ==== Sys2Proof/Machine/Cadence.lean ====
section
/-! DEFINITION. The timed reference of spec/60_exceptions.md R149, one of the sequences of events that the
arbiter of R148 admits. `step` does not use it: no rule depends on the periods (R174). -/

namespace Sys2Proof.Machine

/-- `last_instr` and `last_frame` of R149, in milliseconds. -/
structure Cadence where
  lastInstr : Nat
  lastFrame : Nat
  deriving DecidableEq, Repr

/-- "both `last` values set to the start time" (R149). -/
def Cadence.start (time : Nat) : Cadence := { lastInstr := time, lastFrame := time }

/-- Is the instruction cadence due at time `now` (R149)? -/
def Cadence.instrDue (c : Cadence) (now : Nat) (s : State) : Bool :=
  decide (s.params.instrPeriodMs ≤ now - c.lastInstr)

/-- Is the frame cadence due at time `now`, in a machine that runs (R149)? -/
def Cadence.frameDue (c : Cadence) (now : Nat) (s : State) : Bool :=
  decide (s.status = .running) && decide (s.params.framePeriodMs ≤ now - c.lastFrame)

/-- The second check of R149's loop: a frame tick if it is due. -/
def Cadence.frameCheck (now : Nat) (c : Cadence) (s : State) : Cadence × Result :=
  if c.frameDue now s then ({ c with lastFrame := now }, .next s.frameTick) else (c, .next s)

/-- The two checks of one turn of R149's loop at the clock reading `now`: an instruction tick if it is
due, then a frame tick if it is due. A tick that is made sets its time to `now`, so that missed ticks are
not caught up. An instruction tick is an event of a running machine only (spec/30_encoding.md R72), so a
stopped machine makes neither. -/
def Cadence.iterate (now : Nat) (c : Cadence) (s : State) : Cadence × Result :=
  if s.status = .running ∧ c.instrDue now s then
    match instrTick s with
    | .next t => Cadence.frameCheck now { c with lastInstr := now } t
    | .fault r => ({ c with lastInstr := now }, .fault r)
    | .refused r => ({ c with lastInstr := now }, .refused r)
  else Cadence.frameCheck now c s

/-- R149's loop over the readings that `clock()` gives, one for each turn: after a turn the loop is left
when the machine no longer runs ("if status != Running: exit loop"). Answers the times, and the state
where the loop is left or where the readings end. -/
def Cadence.loop : List Nat → Cadence → State → Cadence × Result
  | [], c, s => (c, .next s)
  | now :: clock, c, s =>
    match c.iterate now s with
    | (c', .next t) => if t.status = .running then Cadence.loop clock c' t else (c', .next t)
    | (c', .fault r) => (c', .fault r)
    | (c', .refused r) => (c', .refused r)

/-- The timed reference of R149: the loop, begun at time `time`. -/
def timedReference (time : Nat) (clock : List Nat) (s : State) : Cadence × Result :=
  (Cadence.start time).loop clock s

end Sys2Proof.Machine
end

