-- ==== Sys2Proof/Safety.lean ====
section
/-! DEFINITION. The terms claims are made in: the invariant of the machine, safe and finished runs
(spec/60_exceptions.md R135, R155), what an instruction may change (spec/10_state.md R21,
spec/20_memory.md R47), and the pixels of a sprite (spec/43_display.md R112, R114). -/

namespace Sys2Proof.Machine

/-- The invariant: memory is in canonical form, and the stack depth is even and at most `MEM_SIZE`
(spec/10_state.md R26, R33). -/
def State.inv (s : State) : Bool :=
  s.memWf && decide (s.sp.toNat % 2 = 0) && decide (s.sp.toNat ≤ s.params.size)

/-- "no fault recorded" (R155). -/
def State.safe (s : State) : Prop := ∀ record, s.status ≠ .faulted record

/-- The states a run from `s` reaches. -/
inductive Reaches (s : State) : State → Prop where
  | here : Reaches s s
  | step {t u : State} (before : Reaches s t) (event : step t = .next u) : Reaches s u

/-- The end of a program (R155): the machine runs and `PC` is the end address `e`, which holds a jump to
`e`. -/
def State.atEnd (e : BitVec 12) (s : State) : Prop :=
  s.status = .running ∧ s.pc = addrOperand e ∧ s.fetch = .ok (encode (.jpNnn e))

/-- What an instruction may change beside `PC`: the registers, whether `I`, `SP`, `DT`, `ST` or the grid,
whether a random byte is drawn, and the addresses of the bytes it stores to. -/
structure Footprint where
  regs : List RegIdx := []
  i : Bool := false
  sp : Bool := false
  dt : Bool := false
  st : Bool := false
  grid : Bool := false
  rand : Bool := false
  stores : List Nat := []

/-- `t` differs from `s` in `PC` and in what `f` names only. -/
def Footprint.frame (f : Footprint) (s t : State) : Prop :=
  (∀ r, r ∉ f.regs → t.reg r = s.reg r) ∧
  (f.i = false → t.i = s.i) ∧
  (f.sp = false → t.sp = s.sp) ∧
  (f.dt = false → t.dt = s.dt) ∧
  (f.st = false → t.st = s.st) ∧
  (f.grid = false → t.grid = s.grid) ∧
  (f.rand = false → t.randCount = s.randCount) ∧
  (∀ a, a ∉ f.stores → t.byteAt a = s.byteAt a) ∧
  t.keyActive = s.keyActive ∧ t.key = s.key ∧ t.status = s.status ∧
  t.arbiter = s.arbiter ∧ t.output = s.output ∧ t.pollCount = s.pollCount ∧ t.params = s.params

end Sys2Proof.Machine

namespace Sys2Proof

open Machine

/-- What each instruction may change, by the tables of spec/10_state.md R21 (registers, the flag) and
spec/20_memory.md R47 (stores), and R24 (`I`), R26 (`SP`), R27, R28 (timers), R29 (grid). -/
def Instr.footprint (s : State) : Instr → Footprint
  | .cls => { grid := true }
  | .ret => { sp := true }
  | .jpNnn _ => {}
  | .call _ => { sp := true, stores := [s.pushAddr, s.pushAddr + 1] }
  | .seVxNn _ _ => {}
  | .sneVxNn _ _ => {}
  | .seVxVy _ _ => {}
  | .ldVxNn x _ => { regs := [x] }
  | .addVxNn x _ => { regs := [x] }
  | .ldVxVy x _ => { regs := [x] }
  | .orVxVy x _ => { regs := [x] }
  | .andVxVy x _ => { regs := [x] }
  | .xorVxVy x _ => { regs := [x] }
  | .addVxVy x _ => { regs := [x, VF] }
  | .subVxVy x _ => { regs := [x, VF] }
  | .shrVxVy x _ => { regs := [x, VF] }
  | .subnVxVy x _ => { regs := [x, VF] }
  | .shlVxVy x _ => { regs := [x, VF] }
  | .sneVxVy _ _ => {}
  | .ldINnn _ => { i := true }
  | .jpV0 _ => {}
  | .rnd x _ => { regs := [x], rand := true }
  | .drw _ _ _ => { regs := [VF], grid := true }
  | .skp _ => {}
  | .sknp _ => {}
  | .ldVxDt x => { regs := [x] }
  | .ldVxK x => { regs := if s.keyActive then [x] else [] }
  | .ldDtVx _ => { dt := true }
  | .ldStVx _ => { st := true }
  | .addIVx x => { regs := if 0x1000 ≤ (s.i.toNat + (s.reg x).toNat) % 0x10000 then [VF] else [], i := true }
  | .ldFVx _ => { i := true }
  | .ldBVx _ => { stores := (List.range 3).map (s.indexAddr + ·) }
  | .ldMiVx x => { stores := (List.range (x.val + 1)).map (s.indexAddr + ·) }
  | .ldVxMi x => { regs := regRange x }

/-- The fault an instruction itself may take (spec/60_exceptions.md R137): the code of R130, or 0 for an
instruction that has none. -/
def Instr.faultCode : Instr → Nat
  | .ret => 4
  | .call _ => 3
  | .drw _ _ _ => 2
  | .ldBVx _ => 2
  | .ldMiVx _ => 2
  | .ldVxMi _ => 2
  | .cls => 0
  | .jpNnn _ => 0
  | .seVxNn _ _ => 0
  | .sneVxNn _ _ => 0
  | .seVxVy _ _ => 0
  | .ldVxNn _ _ => 0
  | .addVxNn _ _ => 0
  | .ldVxVy _ _ => 0
  | .orVxVy _ _ => 0
  | .andVxVy _ _ => 0
  | .xorVxVy _ _ => 0
  | .addVxVy _ _ => 0
  | .subVxVy _ _ => 0
  | .shrVxVy _ _ => 0
  | .subnVxVy _ _ => 0
  | .shlVxVy _ _ => 0
  | .sneVxVy _ _ => 0
  | .ldINnn _ => 0
  | .jpV0 _ => 0
  | .rnd _ _ => 0
  | .skp _ => 0
  | .sknp _ => 0
  | .ldVxDt _ => 0
  | .ldVxK _ => 0
  | .ldDtVx _ => 0
  | .ldStVx _ => 0
  | .addIVx _ => 0
  | .ldFVx _ => 0

/-- The instructions that read the key latch (spec/10_state.md R30). -/
def Instr.readsKey : Instr → Bool
  | .skp _ => true
  | .sknp _ => true
  | .ldVxK _ => true
  | .cls => false
  | .ret => false
  | .jpNnn _ => false
  | .call _ => false
  | .seVxNn _ _ => false
  | .sneVxNn _ _ => false
  | .seVxVy _ _ => false
  | .ldVxNn _ _ => false
  | .addVxNn _ _ => false
  | .ldVxVy _ _ => false
  | .orVxVy _ _ => false
  | .andVxVy _ _ => false
  | .xorVxVy _ _ => false
  | .addVxVy _ _ => false
  | .subVxVy _ _ => false
  | .shrVxVy _ _ => false
  | .subnVxVy _ _ => false
  | .shlVxVy _ _ => false
  | .sneVxVy _ _ => false
  | .ldINnn _ => false
  | .jpV0 _ => false
  | .rnd _ _ => false
  | .drw _ _ _ => false
  | .ldVxDt _ => false
  | .ldDtVx _ => false
  | .ldStVx _ => false
  | .addIVx _ => false
  | .ldFVx _ => false
  | .ldBVx _ => false
  | .ldMiVx _ => false
  | .ldVxMi _ => false

end Sys2Proof

namespace Sys2Proof.Machine

/-- The bit an `n`-row sprite at `base` puts on the pixel (`px`, `py`) from the origin (`x0`, `y0`): row
`r` goes to grid row `y0 + r`, bit 7 of a row to column `x0`, and nothing outside the grid
(spec/43_display.md R112, R114). -/
def spriteBit (byteAt : Nat → Byte) (base x0 y0 n px py : Nat) : Bool :=
  decide (x0 ≤ px) && decide (px < x0 + 8) && decide (px < 64) &&
  decide (y0 ≤ py) && decide (py < y0 + n) && decide (py < 32) &&
  (byteAt (base + (py - y0))).getLsbD (7 - (px - x0))

/-- What a flag-writing ALU instruction leaves (spec/41_register_alu.md R90), on natural numbers: the flag
is computed from the operands `a`, `b` at the start, the result from `a2`, `b2`, in which an operand
that is `V[15]` has become the flag under `AFTER_FLAG`; the destination is written last; nothing else
changes but `PC`. -/
def aluOutcome (flag result : Nat → Nat → Nat) (x y : RegIdx) (s t : State) : Prop :=
  let a := (s.reg x).toNat
  let b := (s.reg y).toNat
  let f := flag a b
  let a2 := if x = VF ∧ s.params.aluVfRead = .afterFlag then f else a
  let b2 := if y = VF ∧ s.params.aluVfRead = .afterFlag then f else b
  (t.reg x).toNat = result a2 b2 ∧
  (x ≠ VF → (t.reg VF).toNat = f) ∧
  (∀ r, r ≠ x → r ≠ VF → t.reg r = s.reg r) ∧
  t = { s with v := t.v, pc := s.pc + 2 }

/-- Run instructions one after another by `exec`, going on from each next state. -/
def execAll : List Instr → State → Result
  | [], s => .next s
  | i :: is, s =>
    match exec i s with
    | .next t => execAll is t
    | .fault r => .fault r
    | .refused r => .refused r

end Sys2Proof.Machine
end

