-- ==== Sys2Proof/Certificates/Slice0/Obligations.lean ====
section
/-! DEFINITION. The statements for the provers. Each docstring names the rule of spec/ it formalises.
Where the rule's text is marked `[decision ...]` or `[derived ...]` by the spec, or the model chose, the
docstring says so. Every statement is about all states, not about a program. -/

open Sys2Proof Sys2Proof.Machine

/-! ### Encoding (spec/30_encoding.md) -/

/-- Decode and encode agree on every well-formed instruction (R76, R77): no bit of an encoding is
dropped. -/
def Obligations.DecodeEncodeRoundTrip : Prop :=
  ∀ i : Instr, i.wellFormed = true → decode (encode i) = .ok i

/-- The other direction (R60 to R71): what a word decodes to is well-formed and encodes to that word,
but for bits 3:0 of families 5 and 9, which decode ignores (R71, which the spec derives; log entry 14). -/
def Obligations.EncodeOfDecodedIsTheWord : Prop :=
  ∀ (w : Word) (i : Instr), decode w = .ok i →
    i.wellFormed = true ∧
    encode i = (if w.toNat / 4096 = 5 ∨ w.toNat / 4096 = 9 then w &&& 0xFFF0#16 else w)

/-- The decoder and spec/opcode_table.json agree: a decoded word carries its instruction's mask and
match, the row is one of the 34, and every word that carries some row's decodes. -/
def Obligations.DecoderAgreesWithOpcodeTable : Prop :=
  (∀ (w : Word) (i : Instr), decode w = .ok i →
    w &&& i.row.mask = i.row.value ∧ i.row ∈ opcodeTable) ∧
  (∀ w : Word, (∃ r ∈ opcodeTable, w &&& r.mask = r.value) → ∃ i, decode w = .ok i) ∧
  opcodeTable.length = 34

/-- No word belongs to two rows of the opcode table. -/
def Obligations.OpcodeRowsDoNotOverlap : Prop :=
  opcodeTable.Pairwise fun r q => ∀ w : Word, ¬ (w &&& r.mask = r.value ∧ w &&& q.mask = q.value)

/-- R62, the places of the fields, and R64, the family. -/
def Obligations.FieldsAreTheBitsNamed : Prop :=
  ∀ w : Word,
    (fieldFam w).toNat = w.toNat / 4096 ∧ (fieldX w).val = w.toNat / 256 % 16 ∧
    (fieldY w).val = w.toNat / 16 % 16 ∧ (fieldN w).toNat = w.toNat % 16 ∧
    (fieldNn w).toNat = w.toNat % 256 ∧ (fieldNnn w).toNat = w.toNat % 4096

/-- R65 to R69 and R73: which words are UNSUPPORTED, and under which name the decoder rejects them.
The widths compared in families 0, E and F are the spec's decisions D6 and D7. -/
def Obligations.UnsupportedWords : Prop :=
  ∀ w : Word,
    (decode w = .error .family0 ↔ w.toNat / 4096 = 0 ∧ w.toNat ≠ 0x00E0 ∧ w.toNat ≠ 0x00EE) ∧
    (decode w = .error .family8 ↔
      w.toNat / 4096 = 8 ∧ 8 ≤ w.toNat % 16 ∧ w.toNat % 16 ≠ 0xE) ∧
    (decode w = .error .familyE ↔
      w.toNat / 4096 = 0xE ∧ w.toNat % 256 ≠ 0x9E ∧ w.toNat % 256 ≠ 0xA1) ∧
    (decode w = .error .familyF ↔
      w.toNat / 4096 = 0xF ∧
      w.toNat % 256 ∉ [0x07, 0x0A, 0x15, 0x18, 0x1E, 0x29, 0x33, 0x55, 0x65]) ∧
    decode w ≠ .error .truncated

/-- Seven words written out from the spec's patterns decode to the instructions they stand for, one of each
file of instructions and of families 0, 2, 8, 9, D, E and F, and one word of family 8 is rejected (R76).
That 0x9AB7, whose bits 3:0 are not 0, is `SNE VA, VB` rests on R71, which the spec derives (log entry
14, DEDUCED). -/
def Obligations.SpecWordsDecode : Prop :=
  decode 0x00E0#16 = .ok .cls ∧ decode 0x2ABC#16 = .ok (.call 0xABC#12) ∧
  decode 0x9AB7#16 = .ok (.sneVxVy 10 11) ∧ decode 0x8125#16 = .ok (.subVxVy 1 2) ∧
  decode 0xF265#16 = .ok (.ldVxMi 2) ∧ decode 0xD125#16 = .ok (.drw 1 2 5) ∧
  decode 0xE3A1#16 = .ok (.sknp 3) ∧ decode 0x8008#16 = .error .family8

/-! ### State, reset and load (spec/10_state.md, spec/70_reset_and_hazards.md) -/

/-- R20: every register is readable and writable, none is hardwired, none overlaps another or memory,
and all are 0 at reset. Stated through 6XNN, which writes any register with any byte, 8XY0, which reads
any register, and FX55, which stores to memory. -/
def Obligations.RegistersAreIndependent : Prop :=
  (∀ (x : RegIdx) (b : Byte) (s : State), ∃ t, exec (.ldVxNn x b) s = .next t ∧
    (∀ r, t.reg r = if r = x then b else s.reg r) ∧ t.mem = s.mem) ∧
  (∀ (x y : RegIdx) (s : State), ∃ t, exec (.ldVxVy x y) s = .next t ∧ t.reg x = s.reg y) ∧
  (∀ (x : RegIdx) (s : State), ∃ t, exec (.ldMiVx x) s = .next t ∧ ∀ r, t.reg r = s.reg r) ∧
  (∀ (p : Params) (r : RegIdx), (State.resetWith p).reg r = 0)

/-- R160, R36 and R7: what reset leaves, for every value of the parameters, and the defaults of R7. The
entry point 0x200 is the spec's decision D2, the font is a parameter (D22, log entry 2), and that the
parameters stand in the state is the model's form (log entries 1 and 22). -/
def Obligations.ResetState : Prop :=
  (∀ (p : Params) (s : State), s = State.resetWith p →
    (∀ r, s.reg r = 0) ∧ s.i = 0 ∧ s.pc = 0x200 ∧ s.sp = 0 ∧ s.dt = 0 ∧ s.st = 0 ∧
    (∀ px py, s.grid.pixel px py = false) ∧
    s.keyActive = false ∧ s.key = 0 ∧ s.status = .running ∧ s.params = p ∧
    (∀ a (h : a < 80), s.byteAt a = p.font[a]) ∧ (∀ a, 80 ≤ a → s.byteAt a = 0)) ∧
  State.reset = State.resetWith Config.params ∧ Config.params.size = 4095 ∧
  Config.params.instrPeriodMs = 2 ∧ Config.params.framePeriodMs = 17

/-- R161: for every value of the parameters, an image of at most `PROG_MAX` bytes lies at 0x200 and every
other byte is as reset leaves it; a longer one is refused (the spec's decision D21). That memory is then
in canonical form is the model's own (log entry 11, DESIGN CHOICE). -/
def Obligations.BootPlacesTheImage : Prop :=
  ∀ (p : Params) (image : List Byte),
    (image.length ≤ p.size - 0x200 →
      ∃ t, bootWith p image = .next t ∧ t = { State.resetWith p with mem := t.mem } ∧
        t.memWf = true ∧
        (∀ k (h : k < image.length), t.byteAt (0x200 + k) = image[k]) ∧
        (∀ a, (a < 0x200 ∨ 0x200 + image.length ≤ a) →
          t.byteAt a = (State.resetWith p).byteAt a)) ∧
    (p.size - 0x200 < image.length → bootWith p image = .refused (.oversizeImage image.length))

/-- Equal memories are equal data: two memories in canonical form that read alike everywhere are the
same list. (The model's own form of R32; log entry 11.) -/
def Obligations.MemoryFormIsCanonical : Prop :=
  ∀ (p : Params) (m n : Memory), m.wf p = true → n.wf p = true →
    (∀ a, m.read p a = n.read p a) → m = n

/-! ### Control transfer (spec/40_control.md) -/

/-- R81, whole: `PC` becomes the address and nothing else changes; a jump to its own address changes
nothing; a target whose fetch leaves memory faults at that fetch. -/
def Obligations.JumpSetsPc : Prop :=
  ∀ (nnn : BitVec 12) (s : State), ∃ t, exec (.jpNnn nnn) s = .next t ∧
    t.pc.toNat = nnn.toNat ∧ t = { s with pc := t.pc } ∧
    (s.pc.toNat = nnn.toNat → t = s) ∧
    (s.params.size ≤ nnn.toNat + 1 → ∃ a, t.fetch = .error a)

/-- R87, whole: `PC` becomes the exact sum of the address and `V[0]`, not masked; a target at or above
`MEM_SIZE - 1` faults at the next fetch. -/
def Obligations.JumpOffsetByV0 : Prop :=
  ∀ (nnn : BitVec 12) (s : State), ∃ t, exec (.jpV0 nnn) s = .next t ∧
    t.pc.toNat = nnn.toNat + (s.reg 0).toNat ∧ t = { s with pc := t.pc } ∧
    (s.params.size - 1 ≤ nnn.toNat + (s.reg 0).toNat → ∃ a, t.fetch = .error a)

/-- R83 and R84, whole: the skips against an immediate. -/
def Obligations.SkipsOnImmediate : Prop :=
  ∀ (x : RegIdx) (nn : Byte) (s : State),
    exec (.seVxNn x nn) s =
      .next { s with pc := if s.reg x = nn then s.pc + 4 else s.pc + 2 } ∧
    exec (.sneVxNn x nn) s =
      .next { s with pc := if s.reg x = nn then s.pc + 2 else s.pc + 4 }

/-- R85 and R86: the skips between registers. That a word with nonzero bits 3:0 behaves the same is
derived by the spec (R71; log entry 14). -/
def Obligations.SkipsOnRegisters : Prop :=
  (∀ (x y : RegIdx) (s : State),
    exec (.seVxVy x y) s =
      .next { s with pc := if s.reg x = s.reg y then s.pc + 4 else s.pc + 2 } ∧
    exec (.sneVxVy x y) s =
      .next { s with pc := if s.reg x = s.reg y then s.pc + 2 else s.pc + 4 }) ∧
  (∀ w : Word, (w.toNat / 4096 = 5 ∨ w.toNat / 4096 = 9) →
    decode w = decode (w &&& 0xFFF0#16))

/-- R82: a call pushes the address after it, high byte at the lower address, and changes no other byte;
a call whose slot would start below address 0 takes StackOverflow. The slot's bytes and the bound are
the spec's decisions D4 and D5. -/
def Obligations.CallPushesReturnAddress : Prop :=
  ∀ (nnn : BitVec 12) (s : State), s.memWf = true →
    (s.sp.toNat + 2 ≤ s.params.size →
      ∃ t, exec (.call nnn) s = .next t ∧
        t.pc.toNat = nnn.toNat ∧ t.sp.toNat = s.sp.toNat + 2 ∧
        t = { s with pc := t.pc, sp := t.sp, mem := t.mem } ∧
        (t.byteAt (s.params.size - 2 - s.sp.toNat)).toNat = (s.pc + 2).toNat / 256 ∧
        (t.byteAt (s.params.size - 1 - s.sp.toNat)).toNat = (s.pc + 2).toNat % 256 ∧
        (∀ a, a ≠ s.params.size - 2 - s.sp.toNat → a ≠ s.params.size - 1 - s.sp.toNat →
          t.byteAt a = s.byteAt a)) ∧
    (s.params.size < s.sp.toNat + 2 →
      exec (.call nnn) s = .next { s with
        status := .faulted ⟨.stackOverflow s.sp (encode (.call nnn)), s.pc⟩ })

/-- R80: a return takes the two bytes of the top slot into `PC` and leaves memory as it is; with fewer
than 2 bytes on the stack it takes StackUnderflow. The slot's bytes and the check are the spec's
decisions D4 and D5. -/
def Obligations.ReturnPopsAddress : Prop :=
  ∀ s : State,
    (2 ≤ s.sp.toNat → s.sp.toNat ≤ s.params.size →
      ∃ t, exec .ret s = .next t ∧
        t.pc.toNat = 256 * (s.byteAt (s.params.size - s.sp.toNat)).toNat +
          (s.byteAt (s.params.size - s.sp.toNat + 1)).toNat ∧
        t.sp.toNat = s.sp.toNat - 2 ∧ t = { s with pc := t.pc, sp := t.sp }) ∧
    (s.sp.toNat < 2 →
      exec .ret s = .next { s with status := .faulted ⟨.stackUnderflow 0x00EE#16, s.pc⟩ })

/-- The call/return round trip for any nesting depth up to the space on the stack (R88, which the spec
derives; source property EX3): calls to any addresses followed by as many returns come back to the
instruction after the first call, with the stack depth restored, no register changed and no byte
outside the slots changed. -/
def Obligations.NestedCallsReturn : Prop :=
  ∀ (targets : List (BitVec 12)) (s : State), s.memWf = true →
    s.sp.toNat + 2 * targets.length ≤ s.params.size →
    ∃ t, execAll (targets.map .call ++ List.replicate targets.length .ret) s = .next t ∧
      t = { s with pc := t.pc, mem := t.mem } ∧
      (targets ≠ [] → t.pc = s.pc + 2) ∧
      (∀ a, (a < s.params.size - s.sp.toNat - 2 * targets.length ∨
          s.params.size - s.sp.toNat ≤ a) → t.byteAt a = s.byteAt a)

/-! ### Registers and arithmetic (spec/41_register_alu.md) -/

/-- R92 and R94, whole: load immediate and copy write `V[x]` and nothing else. -/
def Obligations.LoadsIntoRegister : Prop :=
  ∀ (x y : RegIdx) (nn : Byte) (s : State),
    exec (.ldVxNn x nn) s = .next { s with pc := s.pc + 2, v := s.v.set x.val nn } ∧
    exec (.ldVxVy x y) s = .next { s with pc := s.pc + 2, v := s.v.set x.val (s.reg y) }

/-- R93, whole: add immediate wraps modulo 256 and writes no flag. -/
def Obligations.AddImmediateWraps : Prop :=
  ∀ (x : RegIdx) (nn : Byte) (s : State), ∃ t, exec (.addVxNn x nn) s = .next t ∧
    (t.reg x).toNat = ((s.reg x).toNat + nn.toNat) % 256 ∧
    (∀ r, r ≠ x → t.reg r = s.reg r) ∧ t = { s with pc := s.pc + 2, v := t.v }

/-- R95, R96 and R97, whole: or, and, exclusive or, bit by bit, with no flag. -/
def Obligations.LogicBitByBit : Prop :=
  ∀ (x y : RegIdx) (s : State), ∃ t u w,
    exec (.orVxVy x y) s = .next t ∧ exec (.andVxVy x y) s = .next u ∧
    exec (.xorVxVy x y) s = .next w ∧
    (∀ k, (t.reg x).getLsbD k = ((s.reg x).getLsbD k || (s.reg y).getLsbD k) ∧
      (u.reg x).getLsbD k = ((s.reg x).getLsbD k && (s.reg y).getLsbD k) ∧
      (w.reg x).getLsbD k = ((s.reg x).getLsbD k ^^ (s.reg y).getLsbD k)) ∧
    (∀ r, r ≠ x → t.reg r = s.reg r ∧ u.reg r = s.reg r ∧ w.reg r = s.reg r) ∧
    t = { s with pc := s.pc + 2, v := t.v } ∧ u = { s with pc := s.pc + 2, v := u.v } ∧
    w = { s with pc := s.pc + 2, v := w.v }

/-- R98 with R90: the carry flag comes from the operands at the start, the destination is written last,
and the value read from `V[15]` follows the open parameter `ALU_VF_READ` (D8, log entry 3). -/
def Obligations.AddWithCarry : Prop :=
  ∀ (x y : RegIdx) (s : State), ∃ t, exec (.addVxVy x y) s = .next t ∧
    aluOutcome (fun a b => if 255 < a + b then 1 else 0) (fun a b => (a + b) % 256) x y s t

/-- R99 and R101 with R90: the flag is 1 exactly when the minuend is strictly greater, so 0 for equal
operands (the spec's resolution C2). -/
def Obligations.SubtractBothWays : Prop :=
  ∀ (x y : RegIdx) (s : State),
    (∃ t, exec (.subVxVy x y) s = .next t ∧
      aluOutcome (fun a b => if b < a then 1 else 0) (fun a b => (256 + a - b) % 256) x y s t) ∧
    (∃ t, exec (.subnVxVy x y) s = .next t ∧
      aluOutcome (fun a b => if a < b then 1 else 0) (fun a b => (256 + b - a) % 256) x y s t)

/-- R100 and R102 with R90: the shifts by one bit; `y` has no effect on what they do. -/
def Obligations.ShiftsByOne : Prop :=
  ∀ (x y : RegIdx) (s : State),
    (∃ t, exec (.shrVxVy x y) s = .next t ∧
      aluOutcome (fun a _ => a % 2) (fun a _ => a / 2) x y s t) ∧
    (∃ t, exec (.shlVxVy x y) s = .next t ∧
      aluOutcome (fun a _ => a / 128) (fun a _ => 2 * a % 256) x y s t) ∧
    (∀ z, exec (.shrVxVy x y) s = exec (.shrVxVy x z) s ∧
      exec (.shlVxVy x y) s = exec (.shlVxVy x z) s)

/-- R90: when neither operand is `V[15]` the two settings of `ALU_VF_READ` give the same result. -/
def Obligations.SettingMattersForVfOnly : Prop :=
  ∀ (flag result : Byte → Byte → Byte) (x y : RegIdx) (s : State), x ≠ VF → y ≠ VF →
    s.aluWith .afterFlag flag result x y = s.aluWith .beforeFlag flag result x y ∧
    (s.aluWith .afterFlag flag result x y).reg x = result (s.reg x) (s.reg y) ∧
    (s.aluWith .afterFlag flag result x y).reg VF = flag (s.reg x) (s.reg y)

/-- R103: the result is the drawn byte under the mask, so every bit outside `nn` is 0; the draw is free
(D20, log entry 4), and the statement holds whatever it is. -/
def Obligations.RandomByteIsMasked : Prop :=
  ∀ (x : RegIdx) (nn : Byte) (s : State), ∃ t, exec (.rnd x nn) s = .next t ∧
    (∀ k, (t.reg x).getLsbD k = ((Config.rand8 s.randCount).getLsbD k && nn.getLsbD k)) ∧
    (∀ r, r ≠ x → t.reg r = s.reg r) ∧
    t = { s with pc := s.pc + 2, v := t.v, randCount := s.randCount + 1 }

/-! ### Index register and memory (spec/42_index_memory.md) -/

/-- R105 and R107, whole: load index with an address, or with the address of a glyph. An address that
does not exist is loaded without a fault, and an access through it then takes one. -/
def Obligations.LoadsIntoIndex : Prop :=
  (∀ (nnn : BitVec 12) (s : State), ∃ t, exec (.ldINnn nnn) s = .next t ∧
    t.i.toNat = nnn.toNat ∧ t = { s with pc := s.pc + 2, i := t.i } ∧
    (s.params.size ≤ nnn.toNat → ∀ (x y : RegIdx) (n : Nat) (i : Instr), 0 < n →
      i ∈ [.ldBVx x, .ldMiVx x, .ldVxMi x, .drw x y n] →
      ∃ u record, exec i t = .next u ∧ u.status = .faulted record)) ∧
  (∀ (x : RegIdx) (s : State), ∃ t, exec (.ldFVx x) s = .next t ∧
    t.i.toNat = (s.reg x).toNat % 16 * 5 ∧ t = { s with pc := s.pc + 2, i := t.i })

/-- R106: add to index wraps at 16 bits; `V[15]` becomes 1 when bits 15:12 of the result are not all
zero and is left as it is otherwise (the spec's decision D9). -/
def Obligations.AddToIndex : Prop :=
  ∀ (x : RegIdx) (s : State), ∃ t, exec (.addIVx x) s = .next t ∧
    t.i.toNat = (s.i.toNat + (s.reg x).toNat) % 0x10000 ∧
    t.reg VF = (if 0x1000 ≤ t.i.toNat then 1 else s.reg VF) ∧
    (∀ r, r ≠ VF → t.reg r = s.reg r) ∧ t = { s with pc := s.pc + 2, i := t.i, v := t.v }

/-- R108: the three decimal digits, hundreds first, at `I`, `I + 1`, `I + 2`; no other byte and not `I`
(D10); `MemoryOutOfRange` with the first address that does not exist otherwise (D3). -/
def Obligations.DecimalDigitsStored : Prop :=
  ∀ (x : RegIdx) (s : State), s.memWf = true →
    (s.i.toNat + 2 < s.params.size →
      ∃ t, exec (.ldBVx x) s = .next t ∧
        (t.byteAt s.i.toNat).toNat = (s.reg x).toNat / 100 ∧
        (t.byteAt (s.i.toNat + 1)).toNat = (s.reg x).toNat / 10 % 10 ∧
        (t.byteAt (s.i.toNat + 2)).toNat = (s.reg x).toNat % 10 ∧
        (∀ a, (a < s.i.toNat ∨ s.i.toNat + 3 ≤ a) → t.byteAt a = s.byteAt a) ∧
        t = { s with pc := s.pc + 2, mem := t.mem }) ∧
    (s.params.size ≤ s.i.toNat + 2 →
      exec (.ldBVx x) s = .next { s with
        status := .faulted ⟨.memoryOutOfRange (max s.i.toNat s.params.size)
          (some (encode (.ldBVx x))), s.pc⟩ })

/-- R109: the registers `V[0]` to `V[x]` to the bytes from `I` up; no other byte and not `I` (D10);
`MemoryOutOfRange` when the last byte does not exist (D3). -/
def Obligations.RegistersStored : Prop :=
  ∀ (x : RegIdx) (s : State), s.memWf = true →
    (s.i.toNat + x.val < s.params.size →
      ∃ t, exec (.ldMiVx x) s = .next t ∧
        (∀ r : RegIdx, r ≤ x → t.byteAt (s.i.toNat + r.val) = s.reg r) ∧
        (∀ a, (a < s.i.toNat ∨ s.i.toNat + x.val < a) → t.byteAt a = s.byteAt a) ∧
        t = { s with pc := s.pc + 2, mem := t.mem }) ∧
    (s.params.size ≤ s.i.toNat + x.val →
      exec (.ldMiVx x) s = .next { s with
        status := .faulted ⟨.memoryOutOfRange (max s.i.toNat s.params.size)
          (some (encode (.ldMiVx x))), s.pc⟩ })

/-- R110: the bytes from `I` up to the registers `V[0]` to `V[x]`; no other register and not `I` (D10);
`MemoryOutOfRange` when the last byte does not exist (D3). -/
def Obligations.RegistersLoaded : Prop :=
  ∀ (x : RegIdx) (s : State),
    (s.i.toNat + x.val < s.params.size →
      ∃ t, exec (.ldVxMi x) s = .next t ∧
        (∀ r : RegIdx, t.reg r =
          if r ≤ x then s.byteAt (s.i.toNat + r.val) else s.reg r) ∧
        t = { s with pc := s.pc + 2, v := t.v }) ∧
    (s.params.size ≤ s.i.toNat + x.val →
      exec (.ldVxMi x) s = .next { s with
        status := .faulted ⟨.memoryOutOfRange (max s.i.toNat s.params.size)
          (some (encode (.ldVxMi x))), s.pc⟩ })

/-- A dump and a later load of the same registers at the same `I` give back what was dumped, whatever the
registers hold in between (R109, R110). -/
def Obligations.DumpThenLoadRestores : Prop :=
  ∀ (x : RegIdx) (s t u w : State), s.memWf = true → s.i.toNat + x.val < s.params.size →
    exec (.ldMiVx x) s = .next t → u.mem = t.mem → u.params = t.params → u.i = t.i →
    exec (.ldVxMi x) u = .next w →
    ∀ r : RegIdx, w.reg r = if r ≤ x then s.reg r else u.reg r

/-- R56: a word stored where the next instruction lies is the word the next fetch reads. -/
def Obligations.StoredWordIsFetched : Prop :=
  ∀ (x : RegIdx) (s t : State), s.memWf = true → s.i.toNat + x.val < s.params.size →
    1 ≤ x.val → s.i = s.pc + 2 → exec (.ldMiVx x) s = .next t →
    t.fetch = .ok (s.reg 0 ++ s.reg 1)

/-! ### Pixel grid (spec/43_display.md) -/

/-- R113: every pixel 0 and nothing else changed; the Display sink gets the cleared grid at the next frame
tick and not before. The output latch in which the sinks' signals stand is the model's (log entry 10),
that the frame tick's poll must not quit is the spec's decision D18, and that the tone beside the grid is
that of `ST` before its decrement is D17 (log entry 20). -/
def Obligations.ClearGridClearsEveryPixel : Prop :=
  ∀ s : State, ∃ t, exec .cls s = .next t ∧
    (∀ px py, t.grid.pixel px py = false) ∧ t = { s with pc := s.pc + 2, grid := t.grid } ∧
    (∀ p : Poll, p.quit = false →
      (t.frameTickWith p).output = some { tone := decide (s.st ≠ 0), display := some t.grid })

/-- R114 with R115: the draw's loops amount to exclusive or, pixel by pixel, with the clipped sprite at
the wrapped origin, and `V[15]` is 1 exactly when a set pixel met a sprite bit; nothing else changes.
The order of the coordinate reads and the case `n = 0` are the spec's decision D11. -/
def Obligations.DrawIsPixelwiseXor : Prop :=
  ∀ (x y : RegIdx) (n : Nat) (s : State),
    (min n (32 - (s.reg y).toNat % 32) = 0 ∨
      s.i.toNat + min n (32 - (s.reg y).toNat % 32) ≤ s.params.size) →
    ∃ t, exec (.drw x y n) s = .next t ∧
      (∀ px py, t.grid.pixel px py =
        (s.grid.pixel px py ^^
          spriteBit s.byteAt s.i.toNat ((s.reg x).toNat % 64) ((s.reg y).toNat % 32) n px py)) ∧
      (t.reg VF = 0 ∨ t.reg VF = 1) ∧
      (t.reg VF = 1 ↔ ∃ px py, s.grid.pixel px py = true ∧
        spriteBit s.byteAt s.i.toNat ((s.reg x).toNat % 64) ((s.reg y).toNat % 32) n px py = true) ∧
      (∀ r, r ≠ VF → t.reg r = s.reg r) ∧
      t = { s with pc := s.pc + 2, grid := t.grid, v := t.v }

/-- R114: a row that would be drawn and does not exist makes the draw take `MemoryOutOfRange` with the
first such address, and no pixel is drawn (the spec's decisions D3 and D12). -/
def Obligations.DrawFaultsPastMemory : Prop :=
  ∀ (x y : RegIdx) (n : Nat) (s : State),
    0 < min n (32 - (s.reg y).toNat % 32) →
    s.params.size < s.i.toNat + min n (32 - (s.reg y).toNat % 32) →
    exec (.drw x y n) s = .next { s with
      status := .faulted ⟨.memoryOutOfRange (max s.i.toNat s.params.size)
        (some (encode (.drw x y n))), s.pc⟩ }

/-- R115 (derived by the spec; source property EX7): drawing the same sprite at the same origin twice
restores the grid; the second draw reports 1 exactly when the sprite has a 1-bit on a pixel that was
clear, which, where the first draw met no set pixel (EX7's case), is when it has a 1-bit inside the grid
at all. Over every grid R115's second half does not follow from R114 (log entry 21). -/
def Obligations.DrawTwiceRestores : Prop :=
  ∀ (x y : RegIdx) (n : Nat) (s t u : State),
    exec (.drw x y n) s = .next t → t.status = .running →
    (t.reg x).toNat % 64 = (s.reg x).toNat % 64 → (t.reg y).toNat % 32 = (s.reg y).toNat % 32 →
    exec (.drw x y n) t = .next u →
    u.grid = s.grid ∧
    (u.reg VF = 1 ↔ ∃ px py, s.grid.pixel px py = false ∧
      spriteBit s.byteAt s.i.toNat ((s.reg x).toNat % 64) ((s.reg y).toNat % 32) n px py = true) ∧
    (t.reg VF = 0 → (u.reg VF = 1 ↔ ∃ px py,
      spriteBit s.byteAt s.i.toNat ((s.reg x).toNat % 64) ((s.reg y).toNat % 32) n px py = true))

/-- R115's second half as its words stand, over every grid: "the second draw reports `V[15] = 1` exactly
when the sprite has at least one 1-bit inside the grid". It FAILS: a sprite drawn over set pixels clears
them, so the second draw meets none (R114). The spec derives R115 from R114, whose flag line and whose
quoted source decide, as does R115's own second bullet (log entry 21). -/
def Obligations.SecondDrawAlwaysCollides : Prop :=
  ∀ (x y : RegIdx) (n : Nat) (s t u : State), s.status = .running →
    exec (.drw x y n) s = .next t → t.status = .running →
    (t.reg x).toNat % 64 = (s.reg x).toNat % 64 → (t.reg y).toNat % 32 = (s.reg y).toNat % 32 →
    exec (.drw x y n) t = .next u →
    (u.reg VF = 1 ↔ ∃ px py,
      spriteBit s.byteAt s.i.toNat ((s.reg x).toNat % 64) ((s.reg y).toNat % 32) n px py = true)

/-! ### Key input and timers (spec/44_timer_input.md) -/

/-- R116 and R117: the key skips compare all 8 bits of `V[x]` (the spec's decision D25), and neither
skips when no key is active. -/
def Obligations.KeySkips : Prop :=
  ∀ (x : RegIdx) (s : State),
    exec (.skp x) s = .next { s with
      pc := if s.keyActive = true ∧ (s.reg x).toNat = s.key.toNat then s.pc + 4 else s.pc + 2 } ∧
    exec (.sknp x) s = .next { s with
      pc := if s.keyActive = true ∧ (s.reg x).toNat ≠ s.key.toNat then s.pc + 4 else s.pc + 2 }

/-- R118, R119 and R120: the timer copies; the first decrement happens at the next frame tick, and a
nonzero `ST` makes that tick signal a tone. That a zero `ST` makes it signal none is R144's, the spec's
decision D17 (log entry 20), and the signal stands in the model's output latch (log entry 10). -/
def Obligations.TimerCopies : Prop :=
  ∀ (x : RegIdx) (s : State),
    exec (.ldVxDt x) s = .next { s with pc := s.pc + 2, v := s.v.set x.val s.dt } ∧
    (∃ t, exec (.ldDtVx x) s = .next t ∧ t = { s with pc := s.pc + 2, dt := s.reg x } ∧
      ∀ p : Poll, (t.frameTickWith p).dt.toNat = (s.reg x).toNat - 1) ∧
    (∃ t, exec (.ldStVx x) s = .next t ∧ t = { s with pc := s.pc + 2, st := s.reg x } ∧
      ∀ p : Poll, ((t.frameTickWith p).output.map (·.tone)) = some (decide (s.reg x ≠ 0)))

/-- R121: with a key active it goes to `V[x]`; with none, `PC` is back at the instruction and nothing
changes, so the same word is fetched again. -/
def Obligations.WaitForKey : Prop :=
  ∀ (x : RegIdx) (s : State),
    (s.keyActive = true → ∃ t, exec (.ldVxK x) s = .next t ∧
      (t.reg x).toNat = s.key.toNat ∧ (∀ r, r ≠ x → t.reg r = s.reg r) ∧
      t = { s with pc := s.pc + 2, v := t.v }) ∧
    (s.keyActive = false → exec (.ldVxK x) s = .next s)

/-! ### Frame tick and timers (spec/60_exceptions.md) -/

/-- R142 to R147: a frame tick counts both timers down to 0 at the least, takes the poll into the latch
(`key` keeps its value when no key is active, D19), hands over the tone of `ST` before its decrement
(D17) and the grid, and ends the run without a render when the poll quits (D18). Nothing else
changes. What the poll delivers is free (log entry 5). -/
def Obligations.FrameTickOutcome : Prop :=
  ∀ s : State, s.status = .running → s.arbiter.turn = .frame →
    ∃ t, step s = .next t ∧
      t.dt.toNat = s.dt.toNat - 1 ∧ t.st.toNat = s.st.toNat - 1 ∧
      t.keyActive = (Config.poll s.pollCount).keyActive ∧
      t.key = (if (Config.poll s.pollCount).keyActive = true then (Config.poll s.pollCount).key
        else s.key) ∧
      t.status = (if (Config.poll s.pollCount).quit = true then .terminated else .running) ∧
      t.output = some {
        tone := decide (s.st ≠ 0)
        display := if (Config.poll s.pollCount).quit = true then none else some s.grid } ∧
      t = { s with
        dt := t.dt, st := t.st, keyActive := t.keyActive, key := t.key, status := t.status,
        output := t.output, arbiter := t.arbiter, pollCount := s.pollCount + 1 }

/-- R151 (source property EX5): after any number of frame ticks, whatever their polls deliver, each timer
has gone down by that number, to 0 at the least. -/
def Obligations.TimersCountDownToZero : Prop :=
  ∀ (polls : List Poll) (s : State),
    (polls.foldl (fun t p => t.frameTickWith p) s).dt.toNat = s.dt.toNat - polls.length ∧
    (polls.foldl (fun t p => t.frameTickWith p) s).st.toNat = s.st.toNat - polls.length

/-! ### The cycle, faults and the arbiter (spec/30_encoding.md R72, spec/60_exceptions.md) -/

/-- R72: when the bytes at `PC` decode to an instruction, a step whose turn is an instruction tick is
`exec` of it, after which the arbiter goes on if the machine still runs. -/
def Obligations.StepRunsDecodedInstruction : Prop :=
  ∀ (s : State) (i : Instr) (rest : List Byte), s.status = .running → s.arbiter.turn = .instr →
    s.pc.toNat + 1 < s.params.size →
    decodeBytes [s.byteAt s.pc.toNat, s.byteAt (s.pc.toNat + 1)] = .ok (i, rest) →
    step s = afterTickResult (exec i s) ∧
    (∀ t, exec i s = .next t →
      (t.status = .running → step s = .next { t with arbiter := s.arbiter.next }) ∧
      (t.status ≠ .running → step s = .next t))

/-- R72 and R131: a word that decodes to nothing makes the tick take UnsupportedInstruction with the word
and `pc_f`, and nothing else changes. -/
def Obligations.UnsupportedWordFaults : Prop :=
  ∀ (s : State) (r : Reject), s.status = .running → s.arbiter.turn = .instr →
    s.pc.toNat + 1 < s.params.size → decode (s.wordAt s.pc.toNat) = .error r →
    step s = .next { s with
      status := .faulted ⟨.unsupportedInstruction (s.wordAt s.pc.toNat), s.pc⟩ }

/-- R132 and R72: a fetch that would leave memory takes `MemoryOutOfRange` with the first of its two
addresses that does not exist and no word (the spec's decision D3). -/
def Obligations.FetchFaultsPastMemory : Prop :=
  ∀ s : State, s.status = .running → s.arbiter.turn = .instr →
    s.params.size ≤ s.pc.toNat + 1 →
    step s = .next { s with
      status := .faulted ⟨.memoryOutOfRange
        (if s.params.size ≤ s.pc.toNat then s.pc.toNat else s.pc.toNat + 1) none, s.pc⟩ }

/-- R136 (the spec's decision D12): a step that leaves the machine faulted changes `status` and nothing
else, it was an instruction tick, and the record's `pc_f` is `PC`. A frame tick never faults (R130). -/
def Obligations.FaultsArePrecise : Prop :=
  ∀ (s t : State) (record : FaultRecord), s.status = .running → step s = .next t →
    t.status = .faulted record →
    t = { s with status := .faulted record } ∧ record.pcF = s.pc ∧ s.arbiter.turn = .instr

/-- R137 (the spec's decision D12): an instruction that faults takes the one kind of fault its rule
names; the others take none. -/
def Obligations.InstructionFaultKinds : Prop :=
  ∀ (i : Instr) (s t : State) (record : FaultRecord), s.status = .running →
    exec i s = .next t → t.status = .faulted record →
    record.cause.code = i.faultCode ∧ record.pcF = s.pc

/-- R135 and R147: a faulted or terminated machine takes no step. -/
def Obligations.StoppedMachineTakesNoStep : Prop :=
  (∀ (s : State) (record : FaultRecord), s.status = .faulted record →
    step s = .fault (.coreFaulted record)) ∧
  (∀ s : State, s.status = .terminated → step s = .fault .coreTerminated)

/-- R148 with R130: a running machine always takes its next event; no word, operand or state makes it
stop otherwise or be refused. -/
def Obligations.RunningMachineAlwaysSteps : Prop :=
  ∀ s : State, s.status = .running → ∃ t, step s = .next t

/-- R148 (the spec's decision D16; log entry 6): the events alternate in runs, so that both kinds keep
occurring: after the events that are left of a run, a machine that still runs has the other kind's
turn. -/
def Obligations.ArbiterGivesBothTurns : Prop :=
  ∀ s t : State, core.run (s.arbiter.left + 1) s = .next t → t.status = .running →
    t.arbiter.turn = otherTick s.arbiter.turn

/-- R149 (the spec's decision D16): one turn of the timed reference makes an instruction tick if it is
due and then, in a machine that still runs, a frame tick if it is due, at whatever periods; a machine
that does not run makes neither. -/
def Obligations.TimedReferenceIteration : Prop :=
  ∀ (now : Nat) (c : Cadence) (s : State),
    (s.status = .running → now - c.lastInstr < s.params.instrPeriodMs →
      (now - c.lastFrame < s.params.framePeriodMs → c.iterate now s = (c, .next s)) ∧
      (s.params.framePeriodMs ≤ now - c.lastFrame →
        c.iterate now s = ({ c with lastFrame := now }, .next s.frameTick))) ∧
    (s.status = .running → s.params.instrPeriodMs ≤ now - c.lastInstr →
      ∀ t, instrTick s = .next t →
        (now - c.lastFrame < s.params.framePeriodMs ∨ t.status ≠ .running →
          c.iterate now s = ({ c with lastInstr := now }, .next t)) ∧
        (s.params.framePeriodMs ≤ now - c.lastFrame → t.status = .running →
          c.iterate now s = ({ lastInstr := now, lastFrame := now }, .next t.frameTick))) ∧
    (s.status ≠ .running → c.iterate now s = (c, .next s))

/-! ### The whole machine -/

/-- R21, R47 and R24 to R30: every instruction that does not fault changes, beside `PC`, only what its row
of those tables names: no other register, no other special register, no pixel, no byte outside the
bytes it stores to, and never the key latch, the status, the arbiter or the outputs. -/
def Obligations.InstructionsChangeOnlyTheirFootprint : Prop :=
  ∀ (i : Instr) (s t : State), exec i s = .next t → t.status = s.status →
    (i.footprint s).frame s t

/-- Every step keeps the invariant: memory stays in canonical form (the model's own, log entry 11, DESIGN
CHOICE), and the stack depth stays even and at most `MEM_SIZE` (R26, R33; decisions D4 and D5). -/
def Obligations.StepKeepsInvariant : Prop :=
  ∀ s t : State, s.inv = true → step s = .next t → t.inv = true

/-- The invariant holds after reset, for every value of the parameters: memory is in canonical form (the
model's own, log entry 11, DESIGN CHOICE), and the stack depth is even and at most `MEM_SIZE`. -/
def Obligations.ResetHasInvariant : Prop := ∀ p : Params, (State.resetWith p).inv = true

/-- R30: the key latch is read by EX9E, EXA1 and FX0A and by no other instruction. Two states that differ
in the latch only are taken by any other instruction to two states that differ in the latch only. -/
def Obligations.KeyLatchReadByKeyInstructionsOnly : Prop :=
  ∀ (i : Instr) (s : State) (active : Bool) (key : BitVec 4), i.readsKey = false →
    ∃ t, exec i s = .next t ∧
      exec i { s with keyActive := active, key := key } =
        .next { t with keyActive := active, key := key }

/-- R28: no instruction reads `ST`. Two states that differ in `ST` only are taken by any instruction to
two states that differ in `ST` at most, and in it only where the instruction did not write it. -/
def Obligations.SoundTimerReadByNoInstruction : Prop :=
  ∀ (i : Instr) (s : State) (st : Byte), ∃ t u,
    exec i s = .next t ∧ exec i { s with st := st } = .next u ∧
    u = { t with st := u.st } ∧ (u.st = t.st ∨ (t.st = s.st ∧ u.st = st))

/-- R155 (the spec's decision D16): once a program is at its end, an instruction tick leaves everything
but the arbiter as it is, and neither it nor a frame tick whose poll does not quit leaves the end. -/
def Obligations.JumpToSelfIsTheEnd : Prop :=
  ∀ (e : BitVec 12) (s : State), s.atEnd e →
    (s.arbiter.turn = .instr →
      ∃ t, step s = .next t ∧ t = { s with arbiter := t.arbiter } ∧ t.atEnd e) ∧
    (∀ p : Poll, p.quit = false → (s.frameTickWith p).atEnd e)

/-- R149 (the spec's decision D16): the timed reference starts with both times at the start time; it takes
its turns one after the other and is left with the first one after which the machine does not run, so
that later readings of the clock change nothing; and it never ends in a refusal or in a fault of
`step`: from a running machine it answers a state. -/
def Obligations.TimedReferenceLoop : Prop :=
  ∀ s : State, s.status = .running →
    (∀ (time : Nat) (clock : List Nat),
      timedReference time clock s = Cadence.loop clock { lastInstr := time, lastFrame := time } s) ∧
    (∀ (clock : List Nat) (c : Cadence), ∃ c' t, c.loop clock s = (c', .next t) ∧
      (∀ later, t.status = .running → c.loop (clock ++ later) s = Cadence.loop later c' t) ∧
      (∀ later, t.status ≠ .running → c.loop (clock ++ later) s = (c', .next t))) ∧
    (∀ (now : Nat) (c : Cadence), c.loop [now] s = c.iterate now s)

/-- R7 and R35: the parameters are not changed by any step; the model carries them in the state (log
entry 22). -/
def Obligations.StepKeepsParameters : Prop :=
  ∀ s t : State, step s = .next t → t.params = s.params
end

