-- ==== Sys2Proof/Laws/State.lean ====
section
/-! SUPPORT. One lemma per field per update of the state, so that no later proof unfolds an update. -/

namespace Sys2Proof.Machine

/-! ### Writing a register -/

@[simp] theorem State.setReg_i (s : State) (x : RegIdx) (b : Byte) : (s.setReg x b).i = s.i := rfl
@[simp] theorem State.setReg_pc (s : State) (x : RegIdx) (b : Byte) : (s.setReg x b).pc = s.pc := rfl
@[simp] theorem State.setReg_sp (s : State) (x : RegIdx) (b : Byte) : (s.setReg x b).sp = s.sp := rfl
@[simp] theorem State.setReg_dt (s : State) (x : RegIdx) (b : Byte) : (s.setReg x b).dt = s.dt := rfl
@[simp] theorem State.setReg_st (s : State) (x : RegIdx) (b : Byte) : (s.setReg x b).st = s.st := rfl
@[simp] theorem State.setReg_grid (s : State) (x : RegIdx) (b : Byte) : (s.setReg x b).grid = s.grid := rfl
@[simp] theorem State.setReg_keyActive (s : State) (x : RegIdx) (b : Byte) : (s.setReg x b).keyActive = s.keyActive := rfl
@[simp] theorem State.setReg_key (s : State) (x : RegIdx) (b : Byte) : (s.setReg x b).key = s.key := rfl
@[simp] theorem State.setReg_status (s : State) (x : RegIdx) (b : Byte) : (s.setReg x b).status = s.status := rfl
@[simp] theorem State.setReg_mem (s : State) (x : RegIdx) (b : Byte) : (s.setReg x b).mem = s.mem := rfl
@[simp] theorem State.setReg_arbiter (s : State) (x : RegIdx) (b : Byte) : (s.setReg x b).arbiter = s.arbiter := rfl
@[simp] theorem State.setReg_output (s : State) (x : RegIdx) (b : Byte) : (s.setReg x b).output = s.output := rfl
@[simp] theorem State.setReg_randCount (s : State) (x : RegIdx) (b : Byte) : (s.setReg x b).randCount = s.randCount := rfl
@[simp] theorem State.setReg_params (s : State) (x : RegIdx) (b : Byte) :
    (s.setReg x b).params = s.params := rfl
@[simp] theorem State.setReg_pollCount (s : State) (x : RegIdx) (b : Byte) : (s.setReg x b).pollCount = s.pollCount := rfl

/-! ### The advance of `PC` -/

@[simp] theorem State.advance_v (s : State) : (s.advance).v = s.v := rfl
@[simp] theorem State.advance_i (s : State) : (s.advance).i = s.i := rfl
@[simp] theorem State.advance_sp (s : State) : (s.advance).sp = s.sp := rfl
@[simp] theorem State.advance_dt (s : State) : (s.advance).dt = s.dt := rfl
@[simp] theorem State.advance_st (s : State) : (s.advance).st = s.st := rfl
@[simp] theorem State.advance_grid (s : State) : (s.advance).grid = s.grid := rfl
@[simp] theorem State.advance_keyActive (s : State) : (s.advance).keyActive = s.keyActive := rfl
@[simp] theorem State.advance_key (s : State) : (s.advance).key = s.key := rfl
@[simp] theorem State.advance_status (s : State) : (s.advance).status = s.status := rfl
@[simp] theorem State.advance_mem (s : State) : (s.advance).mem = s.mem := rfl
@[simp] theorem State.advance_arbiter (s : State) : (s.advance).arbiter = s.arbiter := rfl
@[simp] theorem State.advance_output (s : State) : (s.advance).output = s.output := rfl
@[simp] theorem State.advance_randCount (s : State) : (s.advance).randCount = s.randCount := rfl
@[simp] theorem State.advance_params (s : State) :
    (s.advance).params = s.params := rfl
@[simp] theorem State.advance_pollCount (s : State) : (s.advance).pollCount = s.pollCount := rfl
@[simp] theorem State.advance_pc (s : State) : s.advance.pc = s.pc + 2 := rfl

/-! ### A jump -/

@[simp] theorem State.jump_v (s : State) (target : Word) : (s.jump target).v = s.v := rfl
@[simp] theorem State.jump_i (s : State) (target : Word) : (s.jump target).i = s.i := rfl
@[simp] theorem State.jump_sp (s : State) (target : Word) : (s.jump target).sp = s.sp := rfl
@[simp] theorem State.jump_dt (s : State) (target : Word) : (s.jump target).dt = s.dt := rfl
@[simp] theorem State.jump_st (s : State) (target : Word) : (s.jump target).st = s.st := rfl
@[simp] theorem State.jump_grid (s : State) (target : Word) : (s.jump target).grid = s.grid := rfl
@[simp] theorem State.jump_keyActive (s : State) (target : Word) : (s.jump target).keyActive = s.keyActive := rfl
@[simp] theorem State.jump_key (s : State) (target : Word) : (s.jump target).key = s.key := rfl
@[simp] theorem State.jump_status (s : State) (target : Word) : (s.jump target).status = s.status := rfl
@[simp] theorem State.jump_mem (s : State) (target : Word) : (s.jump target).mem = s.mem := rfl
@[simp] theorem State.jump_arbiter (s : State) (target : Word) : (s.jump target).arbiter = s.arbiter := rfl
@[simp] theorem State.jump_output (s : State) (target : Word) : (s.jump target).output = s.output := rfl
@[simp] theorem State.jump_randCount (s : State) (target : Word) : (s.jump target).randCount = s.randCount := rfl
@[simp] theorem State.jump_params (s : State) (target : Word) :
    (s.jump target).params = s.params := rfl
@[simp] theorem State.jump_pollCount (s : State) (target : Word) : (s.jump target).pollCount = s.pollCount := rfl
@[simp] theorem State.jump_pc (s : State) (target : Word) : (s.jump target).pc = target := rfl

/-! ### A skip -/

@[simp] theorem State.skipIf_v (s : State) (c : Bool) : (s.skipIf c).v = s.v := by cases c <;> rfl
@[simp] theorem State.skipIf_i (s : State) (c : Bool) : (s.skipIf c).i = s.i := by cases c <;> rfl
@[simp] theorem State.skipIf_sp (s : State) (c : Bool) : (s.skipIf c).sp = s.sp := by cases c <;> rfl
@[simp] theorem State.skipIf_dt (s : State) (c : Bool) : (s.skipIf c).dt = s.dt := by cases c <;> rfl
@[simp] theorem State.skipIf_st (s : State) (c : Bool) : (s.skipIf c).st = s.st := by cases c <;> rfl
@[simp] theorem State.skipIf_grid (s : State) (c : Bool) : (s.skipIf c).grid = s.grid := by cases c <;> rfl
@[simp] theorem State.skipIf_keyActive (s : State) (c : Bool) : (s.skipIf c).keyActive = s.keyActive := by cases c <;> rfl
@[simp] theorem State.skipIf_key (s : State) (c : Bool) : (s.skipIf c).key = s.key := by cases c <;> rfl
@[simp] theorem State.skipIf_status (s : State) (c : Bool) : (s.skipIf c).status = s.status := by cases c <;> rfl
@[simp] theorem State.skipIf_mem (s : State) (c : Bool) : (s.skipIf c).mem = s.mem := by cases c <;> rfl
@[simp] theorem State.skipIf_arbiter (s : State) (c : Bool) : (s.skipIf c).arbiter = s.arbiter := by cases c <;> rfl
@[simp] theorem State.skipIf_output (s : State) (c : Bool) : (s.skipIf c).output = s.output := by cases c <;> rfl
@[simp] theorem State.skipIf_randCount (s : State) (c : Bool) : (s.skipIf c).randCount = s.randCount := by cases c <;> rfl
@[simp] theorem State.skipIf_params (s : State) (c : Bool) :
    (s.skipIf c).params = s.params := by cases c <;> rfl
@[simp] theorem State.skipIf_pollCount (s : State) (c : Bool) : (s.skipIf c).pollCount = s.pollCount := by cases c <;> rfl
@[simp] theorem State.skipIf_pc (s : State) (c : Bool) :
    (s.skipIf c).pc = if c then s.pc + 2 else s.pc := by cases c <;> rfl

/-! ### Storing to memory -/

@[simp] theorem State.store_v (s : State) (a : Nat) (vs : List Byte) :
    (s.store a vs).v = s.v := rfl
@[simp] theorem State.store_i (s : State) (a : Nat) (vs : List Byte) :
    (s.store a vs).i = s.i := rfl
@[simp] theorem State.store_pc (s : State) (a : Nat) (vs : List Byte) :
    (s.store a vs).pc = s.pc := rfl
@[simp] theorem State.store_sp (s : State) (a : Nat) (vs : List Byte) :
    (s.store a vs).sp = s.sp := rfl
@[simp] theorem State.store_dt (s : State) (a : Nat) (vs : List Byte) :
    (s.store a vs).dt = s.dt := rfl
@[simp] theorem State.store_st (s : State) (a : Nat) (vs : List Byte) :
    (s.store a vs).st = s.st := rfl
@[simp] theorem State.store_grid (s : State) (a : Nat) (vs : List Byte) :
    (s.store a vs).grid = s.grid := rfl
@[simp] theorem State.store_keyActive (s : State) (a : Nat) (vs : List Byte) :
    (s.store a vs).keyActive = s.keyActive := rfl
@[simp] theorem State.store_key (s : State) (a : Nat) (vs : List Byte) :
    (s.store a vs).key = s.key := rfl
@[simp] theorem State.store_status (s : State) (a : Nat) (vs : List Byte) :
    (s.store a vs).status = s.status := rfl
@[simp] theorem State.store_arbiter (s : State) (a : Nat) (vs : List Byte) :
    (s.store a vs).arbiter = s.arbiter := rfl
@[simp] theorem State.store_output (s : State) (a : Nat) (vs : List Byte) :
    (s.store a vs).output = s.output := rfl
@[simp] theorem State.store_params (s : State) (a : Nat) (vs : List Byte) :
    (s.store a vs).params = s.params := rfl
@[simp] theorem State.store_randCount (s : State) (a : Nat) (vs : List Byte) :
    (s.store a vs).randCount = s.randCount := rfl
@[simp] theorem State.store_pollCount (s : State) (a : Nat) (vs : List Byte) :
    (s.store a vs).pollCount = s.pollCount := rfl
@[simp] theorem State.storeWord_v (s : State) (a : Nat) (w : Word) :
    (s.storeWord a w).v = s.v := rfl
@[simp] theorem State.storeWord_i (s : State) (a : Nat) (w : Word) :
    (s.storeWord a w).i = s.i := rfl
@[simp] theorem State.storeWord_pc (s : State) (a : Nat) (w : Word) :
    (s.storeWord a w).pc = s.pc := rfl
@[simp] theorem State.storeWord_sp (s : State) (a : Nat) (w : Word) :
    (s.storeWord a w).sp = s.sp := rfl
@[simp] theorem State.storeWord_dt (s : State) (a : Nat) (w : Word) :
    (s.storeWord a w).dt = s.dt := rfl
@[simp] theorem State.storeWord_st (s : State) (a : Nat) (w : Word) :
    (s.storeWord a w).st = s.st := rfl
@[simp] theorem State.storeWord_grid (s : State) (a : Nat) (w : Word) :
    (s.storeWord a w).grid = s.grid := rfl
@[simp] theorem State.storeWord_keyActive (s : State) (a : Nat) (w : Word) :
    (s.storeWord a w).keyActive = s.keyActive := rfl
@[simp] theorem State.storeWord_key (s : State) (a : Nat) (w : Word) :
    (s.storeWord a w).key = s.key := rfl
@[simp] theorem State.storeWord_status (s : State) (a : Nat) (w : Word) :
    (s.storeWord a w).status = s.status := rfl
@[simp] theorem State.storeWord_arbiter (s : State) (a : Nat) (w : Word) :
    (s.storeWord a w).arbiter = s.arbiter := rfl
@[simp] theorem State.storeWord_output (s : State) (a : Nat) (w : Word) :
    (s.storeWord a w).output = s.output := rfl
@[simp] theorem State.storeWord_params (s : State) (a : Nat) (w : Word) :
    (s.storeWord a w).params = s.params := rfl
@[simp] theorem State.storeWord_randCount (s : State) (a : Nat) (w : Word) :
    (s.storeWord a w).randCount = s.randCount := rfl
@[simp] theorem State.storeWord_pollCount (s : State) (a : Nat) (w : Word) :
    (s.storeWord a w).pollCount = s.pollCount := rfl
@[simp] theorem State.store_mem (s : State) (a : Nat) (vs : List Byte) :
    (s.store a vs).mem = s.mem.writeBytes s.params a vs := rfl
@[simp] theorem State.storeWord_mem (s : State) (a : Nat) (w : Word) :
    (s.storeWord a w).mem = s.mem.writeWord s.params a w := rfl

/-! ### Taking a fault -/

@[simp] theorem State.takeFault_v (s : State) (cause : FaultCause) : (s.takeFault cause).v = s.v := rfl
@[simp] theorem State.takeFault_i (s : State) (cause : FaultCause) : (s.takeFault cause).i = s.i := rfl
@[simp] theorem State.takeFault_pc (s : State) (cause : FaultCause) : (s.takeFault cause).pc = s.pc := rfl
@[simp] theorem State.takeFault_sp (s : State) (cause : FaultCause) : (s.takeFault cause).sp = s.sp := rfl
@[simp] theorem State.takeFault_dt (s : State) (cause : FaultCause) : (s.takeFault cause).dt = s.dt := rfl
@[simp] theorem State.takeFault_st (s : State) (cause : FaultCause) : (s.takeFault cause).st = s.st := rfl
@[simp] theorem State.takeFault_grid (s : State) (cause : FaultCause) : (s.takeFault cause).grid = s.grid := rfl
@[simp] theorem State.takeFault_keyActive (s : State) (cause : FaultCause) : (s.takeFault cause).keyActive = s.keyActive := rfl
@[simp] theorem State.takeFault_key (s : State) (cause : FaultCause) : (s.takeFault cause).key = s.key := rfl
@[simp] theorem State.takeFault_mem (s : State) (cause : FaultCause) : (s.takeFault cause).mem = s.mem := rfl
@[simp] theorem State.takeFault_arbiter (s : State) (cause : FaultCause) : (s.takeFault cause).arbiter = s.arbiter := rfl
@[simp] theorem State.takeFault_output (s : State) (cause : FaultCause) : (s.takeFault cause).output = s.output := rfl
@[simp] theorem State.takeFault_randCount (s : State) (cause : FaultCause) : (s.takeFault cause).randCount = s.randCount := rfl
@[simp] theorem State.takeFault_params (s : State) (cause : FaultCause) :
    (s.takeFault cause).params = s.params := rfl
@[simp] theorem State.takeFault_pollCount (s : State) (cause : FaultCause) : (s.takeFault cause).pollCount = s.pollCount := rfl
@[simp] theorem State.takeFault_status (s : State) (cause : FaultCause) :
    (s.takeFault cause).status = .faulted { cause := cause, pcF := s.pc } := rfl

/-! ### A flag that is set or left -/

@[simp] theorem State.setFlagIf_i (s : State) (c : Bool) : (s.setFlagIf c).i = s.i := by cases c <;> rfl
@[simp] theorem State.setFlagIf_pc (s : State) (c : Bool) : (s.setFlagIf c).pc = s.pc := by cases c <;> rfl
@[simp] theorem State.setFlagIf_sp (s : State) (c : Bool) : (s.setFlagIf c).sp = s.sp := by cases c <;> rfl
@[simp] theorem State.setFlagIf_dt (s : State) (c : Bool) : (s.setFlagIf c).dt = s.dt := by cases c <;> rfl
@[simp] theorem State.setFlagIf_st (s : State) (c : Bool) : (s.setFlagIf c).st = s.st := by cases c <;> rfl
@[simp] theorem State.setFlagIf_grid (s : State) (c : Bool) : (s.setFlagIf c).grid = s.grid := by cases c <;> rfl
@[simp] theorem State.setFlagIf_keyActive (s : State) (c : Bool) : (s.setFlagIf c).keyActive = s.keyActive := by cases c <;> rfl
@[simp] theorem State.setFlagIf_key (s : State) (c : Bool) : (s.setFlagIf c).key = s.key := by cases c <;> rfl
@[simp] theorem State.setFlagIf_status (s : State) (c : Bool) : (s.setFlagIf c).status = s.status := by cases c <;> rfl
@[simp] theorem State.setFlagIf_mem (s : State) (c : Bool) : (s.setFlagIf c).mem = s.mem := by cases c <;> rfl
@[simp] theorem State.setFlagIf_arbiter (s : State) (c : Bool) : (s.setFlagIf c).arbiter = s.arbiter := by cases c <;> rfl
@[simp] theorem State.setFlagIf_output (s : State) (c : Bool) : (s.setFlagIf c).output = s.output := by cases c <;> rfl
@[simp] theorem State.setFlagIf_randCount (s : State) (c : Bool) : (s.setFlagIf c).randCount = s.randCount := by cases c <;> rfl
@[simp] theorem State.setFlagIf_params (s : State) (c : Bool) :
    (s.setFlagIf c).params = s.params := by cases c <;> rfl
@[simp] theorem State.setFlagIf_pollCount (s : State) (c : Bool) : (s.setFlagIf c).pollCount = s.pollCount := by cases c <;> rfl

/-! ### A random byte -/

@[simp] theorem State.rndWith_i (s : State) (draw : Byte) (x : RegIdx) (nn : Byte) : (s.rndWith draw x nn).i = s.i := rfl
@[simp] theorem State.rndWith_pc (s : State) (draw : Byte) (x : RegIdx) (nn : Byte) : (s.rndWith draw x nn).pc = s.pc := rfl
@[simp] theorem State.rndWith_sp (s : State) (draw : Byte) (x : RegIdx) (nn : Byte) : (s.rndWith draw x nn).sp = s.sp := rfl
@[simp] theorem State.rndWith_dt (s : State) (draw : Byte) (x : RegIdx) (nn : Byte) : (s.rndWith draw x nn).dt = s.dt := rfl
@[simp] theorem State.rndWith_st (s : State) (draw : Byte) (x : RegIdx) (nn : Byte) : (s.rndWith draw x nn).st = s.st := rfl
@[simp] theorem State.rndWith_grid (s : State) (draw : Byte) (x : RegIdx) (nn : Byte) : (s.rndWith draw x nn).grid = s.grid := rfl
@[simp] theorem State.rndWith_keyActive (s : State) (draw : Byte) (x : RegIdx) (nn : Byte) : (s.rndWith draw x nn).keyActive = s.keyActive := rfl
@[simp] theorem State.rndWith_key (s : State) (draw : Byte) (x : RegIdx) (nn : Byte) : (s.rndWith draw x nn).key = s.key := rfl
@[simp] theorem State.rndWith_status (s : State) (draw : Byte) (x : RegIdx) (nn : Byte) : (s.rndWith draw x nn).status = s.status := rfl
@[simp] theorem State.rndWith_mem (s : State) (draw : Byte) (x : RegIdx) (nn : Byte) : (s.rndWith draw x nn).mem = s.mem := rfl
@[simp] theorem State.rndWith_arbiter (s : State) (draw : Byte) (x : RegIdx) (nn : Byte) : (s.rndWith draw x nn).arbiter = s.arbiter := rfl
@[simp] theorem State.rndWith_output (s : State) (draw : Byte) (x : RegIdx) (nn : Byte) : (s.rndWith draw x nn).output = s.output := rfl
@[simp] theorem State.rndWith_params (s : State) (draw : Byte) (x : RegIdx) (nn : Byte) :
    (s.rndWith draw x nn).params = s.params := rfl
@[simp] theorem State.rndWith_pollCount (s : State) (draw : Byte) (x : RegIdx) (nn : Byte) : (s.rndWith draw x nn).pollCount = s.pollCount := rfl
@[simp] theorem State.rndWith_randCount (s : State) (draw : Byte) (x : RegIdx) (nn : Byte) :
    (s.rndWith draw x nn).randCount = s.randCount + 1 := rfl

/-! ### The flag-writing ALU instructions -/

@[simp] theorem State.alu_i (s : State) (flag result : Byte → Byte → Byte) (x y : RegIdx) :
    (s.alu flag result x y).i = s.i := rfl
@[simp] theorem State.alu_pc (s : State) (flag result : Byte → Byte → Byte) (x y : RegIdx) :
    (s.alu flag result x y).pc = s.pc := rfl
@[simp] theorem State.alu_sp (s : State) (flag result : Byte → Byte → Byte) (x y : RegIdx) :
    (s.alu flag result x y).sp = s.sp := rfl
@[simp] theorem State.alu_dt (s : State) (flag result : Byte → Byte → Byte) (x y : RegIdx) :
    (s.alu flag result x y).dt = s.dt := rfl
@[simp] theorem State.alu_st (s : State) (flag result : Byte → Byte → Byte) (x y : RegIdx) :
    (s.alu flag result x y).st = s.st := rfl
@[simp] theorem State.alu_grid (s : State) (flag result : Byte → Byte → Byte) (x y : RegIdx) :
    (s.alu flag result x y).grid = s.grid := rfl
@[simp] theorem State.alu_keyActive (s : State) (flag result : Byte → Byte → Byte) (x y : RegIdx) :
    (s.alu flag result x y).keyActive = s.keyActive := rfl
@[simp] theorem State.alu_key (s : State) (flag result : Byte → Byte → Byte) (x y : RegIdx) :
    (s.alu flag result x y).key = s.key := rfl
@[simp] theorem State.alu_status (s : State) (flag result : Byte → Byte → Byte) (x y : RegIdx) :
    (s.alu flag result x y).status = s.status := rfl
@[simp] theorem State.alu_mem (s : State) (flag result : Byte → Byte → Byte) (x y : RegIdx) :
    (s.alu flag result x y).mem = s.mem := rfl
@[simp] theorem State.alu_arbiter (s : State) (flag result : Byte → Byte → Byte) (x y : RegIdx) :
    (s.alu flag result x y).arbiter = s.arbiter := rfl
@[simp] theorem State.alu_output (s : State) (flag result : Byte → Byte → Byte) (x y : RegIdx) :
    (s.alu flag result x y).output = s.output := rfl
@[simp] theorem State.alu_randCount (s : State) (flag result : Byte → Byte → Byte) (x y : RegIdx) :
    (s.alu flag result x y).randCount = s.randCount := rfl
@[simp] theorem State.alu_params (s : State) (flag result : Byte → Byte → Byte) (x y : RegIdx) :
    (s.alu flag result x y).params = s.params := rfl
@[simp] theorem State.alu_pollCount (s : State) (flag result : Byte → Byte → Byte) (x y : RegIdx) :
    (s.alu flag result x y).pollCount = s.pollCount := rfl

/-! ### A frame tick -/

@[simp] theorem State.frameTickWith_v (s : State) (p : Poll) : (s.frameTickWith p).v = s.v := rfl
@[simp] theorem State.frameTickWith_i (s : State) (p : Poll) : (s.frameTickWith p).i = s.i := rfl
@[simp] theorem State.frameTickWith_pc (s : State) (p : Poll) : (s.frameTickWith p).pc = s.pc := rfl
@[simp] theorem State.frameTickWith_sp (s : State) (p : Poll) : (s.frameTickWith p).sp = s.sp := rfl
@[simp] theorem State.frameTickWith_grid (s : State) (p : Poll) : (s.frameTickWith p).grid = s.grid := rfl
@[simp] theorem State.frameTickWith_mem (s : State) (p : Poll) : (s.frameTickWith p).mem = s.mem := rfl
@[simp] theorem State.frameTickWith_arbiter (s : State) (p : Poll) : (s.frameTickWith p).arbiter = s.arbiter := rfl
@[simp] theorem State.frameTickWith_randCount (s : State) (p : Poll) : (s.frameTickWith p).randCount = s.randCount := rfl
@[simp] theorem State.frameTickWith_dt (s : State) (p : Poll) : (s.frameTickWith p).dt = countDown s.dt := rfl
@[simp] theorem State.frameTickWith_st (s : State) (p : Poll) : (s.frameTickWith p).st = countDown s.st := rfl
@[simp] theorem State.frameTickWith_keyActive (s : State) (p : Poll) : (s.frameTickWith p).keyActive = p.keyActive := rfl
@[simp] theorem State.frameTickWith_key (s : State) (p : Poll) :
    (s.frameTickWith p).key = if p.keyActive then p.key else s.key := rfl
@[simp] theorem State.frameTickWith_status (s : State) (p : Poll) :
    (s.frameTickWith p).status = if p.quit then .terminated else s.status := rfl
@[simp] theorem State.frameTickWith_output (s : State) (p : Poll) :
    (s.frameTickWith p).output =
      some { tone := s.st != 0, display := if p.quit then none else some s.grid } := rfl
@[simp] theorem State.frameTickWith_params (s : State) (p : Poll) :
    (s.frameTickWith p).params = s.params := rfl
@[simp] theorem State.frameTickWith_pollCount (s : State) (p : Poll) :
    (s.frameTickWith p).pollCount = s.pollCount + 1 := rfl

/-! ### The end of a tick -/

@[simp] theorem State.afterTick_v (s : State) : s.afterTick.v = s.v := by
  unfold State.afterTick; split <;> rfl
@[simp] theorem State.afterTick_i (s : State) : s.afterTick.i = s.i := by
  unfold State.afterTick; split <;> rfl
@[simp] theorem State.afterTick_pc (s : State) : s.afterTick.pc = s.pc := by
  unfold State.afterTick; split <;> rfl
@[simp] theorem State.afterTick_sp (s : State) : s.afterTick.sp = s.sp := by
  unfold State.afterTick; split <;> rfl
@[simp] theorem State.afterTick_dt (s : State) : s.afterTick.dt = s.dt := by
  unfold State.afterTick; split <;> rfl
@[simp] theorem State.afterTick_st (s : State) : s.afterTick.st = s.st := by
  unfold State.afterTick; split <;> rfl
@[simp] theorem State.afterTick_grid (s : State) : s.afterTick.grid = s.grid := by
  unfold State.afterTick; split <;> rfl
@[simp] theorem State.afterTick_keyActive (s : State) : s.afterTick.keyActive = s.keyActive := by
  unfold State.afterTick; split <;> rfl
@[simp] theorem State.afterTick_key (s : State) : s.afterTick.key = s.key := by
  unfold State.afterTick; split <;> rfl
@[simp] theorem State.afterTick_status (s : State) : s.afterTick.status = s.status := by
  unfold State.afterTick; split <;> rfl
@[simp] theorem State.afterTick_mem (s : State) : s.afterTick.mem = s.mem := by
  unfold State.afterTick; split <;> rfl
@[simp] theorem State.afterTick_output (s : State) : s.afterTick.output = s.output := by
  unfold State.afterTick; split <;> rfl
@[simp] theorem State.afterTick_randCount (s : State) : s.afterTick.randCount = s.randCount := by
  unfold State.afterTick; split <;> rfl
@[simp] theorem State.afterTick_params (s : State) : s.afterTick.params = s.params := by
  unfold State.afterTick; split <;> rfl
@[simp] theorem State.afterTick_pollCount (s : State) : s.afterTick.pollCount = s.pollCount := by
  unfold State.afterTick; split <;> rfl

theorem State.afterTick_of_running {s : State} (h : s.status = .running) :
    s.afterTick = { s with arbiter := s.arbiter.next } := by
  unfold State.afterTick; split <;> simp_all

theorem State.afterTick_of_not_running {s : State} (h : s.status ≠ .running) : s.afterTick = s := by
  unfold State.afterTick; split <;> simp_all

/-! ### Loading registers -/

@[simp] theorem State.loadRegs_i (base : Nat) (rs : List RegIdx) (s : State) :
    (s.loadRegs base rs).i = s.i := by
  induction rs generalizing s with
  | nil => rfl
  | cons r rs ih => simp [State.loadRegs, ih]
@[simp] theorem State.loadRegs_pc (base : Nat) (rs : List RegIdx) (s : State) :
    (s.loadRegs base rs).pc = s.pc := by
  induction rs generalizing s with
  | nil => rfl
  | cons r rs ih => simp [State.loadRegs, ih]
@[simp] theorem State.loadRegs_sp (base : Nat) (rs : List RegIdx) (s : State) :
    (s.loadRegs base rs).sp = s.sp := by
  induction rs generalizing s with
  | nil => rfl
  | cons r rs ih => simp [State.loadRegs, ih]
@[simp] theorem State.loadRegs_dt (base : Nat) (rs : List RegIdx) (s : State) :
    (s.loadRegs base rs).dt = s.dt := by
  induction rs generalizing s with
  | nil => rfl
  | cons r rs ih => simp [State.loadRegs, ih]
@[simp] theorem State.loadRegs_st (base : Nat) (rs : List RegIdx) (s : State) :
    (s.loadRegs base rs).st = s.st := by
  induction rs generalizing s with
  | nil => rfl
  | cons r rs ih => simp [State.loadRegs, ih]
@[simp] theorem State.loadRegs_grid (base : Nat) (rs : List RegIdx) (s : State) :
    (s.loadRegs base rs).grid = s.grid := by
  induction rs generalizing s with
  | nil => rfl
  | cons r rs ih => simp [State.loadRegs, ih]
@[simp] theorem State.loadRegs_keyActive (base : Nat) (rs : List RegIdx) (s : State) :
    (s.loadRegs base rs).keyActive = s.keyActive := by
  induction rs generalizing s with
  | nil => rfl
  | cons r rs ih => simp [State.loadRegs, ih]
@[simp] theorem State.loadRegs_key (base : Nat) (rs : List RegIdx) (s : State) :
    (s.loadRegs base rs).key = s.key := by
  induction rs generalizing s with
  | nil => rfl
  | cons r rs ih => simp [State.loadRegs, ih]
@[simp] theorem State.loadRegs_status (base : Nat) (rs : List RegIdx) (s : State) :
    (s.loadRegs base rs).status = s.status := by
  induction rs generalizing s with
  | nil => rfl
  | cons r rs ih => simp [State.loadRegs, ih]
@[simp] theorem State.loadRegs_mem (base : Nat) (rs : List RegIdx) (s : State) :
    (s.loadRegs base rs).mem = s.mem := by
  induction rs generalizing s with
  | nil => rfl
  | cons r rs ih => simp [State.loadRegs, ih]
@[simp] theorem State.loadRegs_arbiter (base : Nat) (rs : List RegIdx) (s : State) :
    (s.loadRegs base rs).arbiter = s.arbiter := by
  induction rs generalizing s with
  | nil => rfl
  | cons r rs ih => simp [State.loadRegs, ih]
@[simp] theorem State.loadRegs_output (base : Nat) (rs : List RegIdx) (s : State) :
    (s.loadRegs base rs).output = s.output := by
  induction rs generalizing s with
  | nil => rfl
  | cons r rs ih => simp [State.loadRegs, ih]
@[simp] theorem State.loadRegs_randCount (base : Nat) (rs : List RegIdx) (s : State) :
    (s.loadRegs base rs).randCount = s.randCount := by
  induction rs generalizing s with
  | nil => rfl
  | cons r rs ih => simp [State.loadRegs, ih]
@[simp] theorem State.loadRegs_params (base : Nat) (rs : List RegIdx) (s : State) :
    (s.loadRegs base rs).params = s.params := by
  induction rs generalizing s with
  | nil => rfl
  | cons r rs ih => simp [State.loadRegs, ih]
@[simp] theorem State.loadRegs_pollCount (base : Nat) (rs : List RegIdx) (s : State) :
    (s.loadRegs base rs).pollCount = s.pollCount := by
  induction rs generalizing s with
  | nil => rfl
  | cons r rs ih => simp [State.loadRegs, ih]

end Sys2Proof.Machine
end

