-- ==== Sys2Proof/Laws/Ops.lean ====
section
/-! SUPPORT. What each shared operation over memory, registers and the grid does, once. -/

namespace Sys2Proof

/-! ### Parameters -/

/-- `MEM_SIZE` is one of its two settings (spec/92_eei_decisions.md D1). -/
theorem Params.size_cases (p : Params) : p.size = 4095 ∨ p.size = 4096 := by
  unfold Params.size
  cases p.memSize
  · exact .inl rfl
  · exact .inr rfl

end Sys2Proof

namespace Sys2Proof.Machine

/-! ### Memory -/

section Memory

variable {p : Params}

theorem Memory.wfFrom_mono {lo lo' : Nat} {m : Memory} (hlo : lo' ≤ lo)
    (h : Memory.wfFrom p lo m = true) : Memory.wfFrom p lo' m = true := by
  cases m with
  | nil => rfl
  | cons c rest =>
    obtain ⟨a, v⟩ := c
    simp only [Memory.wfFrom, Bool.and_eq_true, decide_eq_true_eq] at h ⊢
    exact ⟨⟨⟨by omega, h.1.1.2⟩, h.1.2⟩, h.2⟩

/-- An address below all entries is not listed. -/
theorem Memory.read_of_lt {lo a : Nat} {m : Memory} (h : Memory.wfFrom p lo m = true) (ha : a < lo) :
    m.read p a = Memory.initial p a := by
  induction m generalizing lo with
  | nil => rfl
  | cons c rest ih =>
    obtain ⟨b, v⟩ := c
    simp only [Memory.wfFrom, Bool.and_eq_true, decide_eq_true_eq] at h
    have hb : a ≠ b := by omega
    simp only [Memory.read, hb, if_false]
    exact ih h.2 (by omega)

/-- A write keeps the canonical form. -/
theorem Memory.wfFrom_write {lo a : Nat} {m : Memory} (v : Byte) (h : Memory.wfFrom p lo m = true)
    (hlo : lo ≤ a) (ha : a < p.size) : Memory.wfFrom p lo (m.write p a v) = true := by
  induction m generalizing lo with
  | nil =>
    unfold Memory.write
    split
    · rfl
    · simp_all [Memory.wfFrom]
  | cons c rest ih =>
    obtain ⟨b, u⟩ := c
    have h' := h
    simp only [Memory.wfFrom, Bool.and_eq_true, decide_eq_true_eq] at h'
    obtain ⟨⟨⟨hb, hbm⟩, hu⟩, hrest⟩ := h'
    unfold Memory.write
    split
    · split
      · exact h
      · have : Memory.wfFrom p (a + 1) ((b, u) :: rest) = true := by
          simp only [Memory.wfFrom, Bool.and_eq_true, decide_eq_true_eq]
          exact ⟨⟨⟨by omega, hbm⟩, hu⟩, hrest⟩
        rw [Memory.wfFrom]
        simp_all
    · split
      · split
        · exact Memory.wfFrom_mono (by omega) hrest
        · subst b
          rw [Memory.wfFrom]
          simp_all
      · rw [Memory.wfFrom]
        simp only [Bool.and_eq_true, decide_eq_true_eq]
        exact ⟨⟨⟨hb, hbm⟩, hu⟩, ih hrest (by omega)⟩

theorem Memory.wf_write {a : Nat} {m : Memory} (v : Byte) (h : m.wf p = true)
    (ha : a < p.size) : (m.write p a v).wf p = true :=
  Memory.wfFrom_write v h (Nat.zero_le a) ha

/-- A write leaves every other address alone, in canonical form or not. -/
theorem Memory.read_write_of_ne {a b : Nat} (m : Memory) (v : Byte) (hb : b ≠ a) :
    (m.write p a v).read p b = m.read p b := by
  induction m with
  | nil => unfold Memory.write; split <;> simp [Memory.read, hb]
  | cons c rest ih =>
    obtain ⟨d, u⟩ := c
    unfold Memory.write
    split
    · split
      · rfl
      · simp [Memory.read, hb]
    · split
      · subst d
        split <;> simp [Memory.read, hb]
      · simp only [Memory.read, ih]

theorem Memory.read_writeFrom_self {lo a : Nat} {m : Memory} (v : Byte)
    (h : Memory.wfFrom p lo m = true) : (m.write p a v).read p a = v := by
  induction m generalizing lo with
  | nil => unfold Memory.write; split <;> simp_all [Memory.read]
  | cons c rest ih =>
    obtain ⟨b, u⟩ := c
    have h' := h
    simp only [Memory.wfFrom, Bool.and_eq_true, decide_eq_true_eq] at h'
    unfold Memory.write
    split
    · split
      · rename_i hlt hv
        have hne : a ≠ b := by omega
        simp only [Memory.read, hne, if_false]
        rw [Memory.read_of_lt h'.2 (by omega), hv]
      · simp [Memory.read]
    · split
      · split
        · rename_i hab hv
          rw [Memory.read_of_lt h'.2 (by omega), hv]
        · simp [Memory.read]
      · rename_i hab
        simp only [Memory.read, hab, if_false]
        exact ih h'.2

/-- A read after a write to the same address gives the byte written. -/
theorem Memory.read_write_self {a : Nat} {m : Memory} (v : Byte) (h : m.wf p = true) :
    (m.write p a v).read p a = v :=
  Memory.read_writeFrom_self v h

theorem Memory.wf_writeBytes {a : Nat} {m : Memory} (vs : List Byte) (h : m.wf p = true)
    (ha : a + vs.length ≤ p.size) : (m.writeBytes p a vs).wf p = true := by
  induction vs generalizing a m with
  | nil => exact h
  | cons v vs ih =>
    simp only [List.length_cons] at ha
    exact ih (Memory.wf_write v h (by omega)) (by omega)

theorem Memory.read_writeBytes_outside {a b : Nat} (m : Memory) (vs : List Byte)
    (hb : b < a ∨ a + vs.length ≤ b) : (m.writeBytes p a vs).read p b = m.read p b := by
  induction vs generalizing a m with
  | nil => rfl
  | cons v vs ih =>
    simp only [List.length_cons] at hb
    rw [Memory.writeBytes, ih _ (by omega), Memory.read_write_of_ne _ _ (by omega)]

theorem Memory.read_writeBytes {a k : Nat} {m : Memory} {vs : List Byte} (h : m.wf p = true)
    (ha : a + vs.length ≤ p.size) (hk : k < vs.length) :
    (m.writeBytes p a vs).read p (a + k) = vs[k] := by
  induction vs generalizing a m k with
  | nil => simp at hk
  | cons v vs ih =>
    simp only [List.length_cons] at ha hk
    cases k with
    | zero =>
      rw [Memory.writeBytes, Nat.add_zero, Memory.read_writeBytes_outside _ _ (by omega)]
      exact Memory.read_write_self v h
    | succ k =>
      rw [Memory.writeBytes, show a + (k + 1) = a + 1 + k by omega,
        ih (Memory.wf_write v h (by omega)) (by omega) (by omega)]
      rfl

theorem Memory.wf_writeWord {a : Nat} {m : Memory} (w : Word) (h : m.wf p = true)
    (ha : a + 2 ≤ p.size) : (m.writeWord p a w).wf p = true :=
  Memory.wf_writeBytes _ h ha

theorem Memory.read_writeWord_outside {a b : Nat} (m : Memory) (w : Word)
    (hb : b < a ∨ a + 2 ≤ b) : (m.writeWord p a w).read p b = m.read p b :=
  Memory.read_writeBytes_outside m _ hb

theorem Memory.read_writeWord_high {a : Nat} {m : Memory} (w : Word) (h : m.wf p = true)
    (ha : a + 2 ≤ p.size) : (m.writeWord p a w).read p a = highByte w :=
  Memory.read_writeBytes (k := 0) (vs := [highByte w, lowByte w]) h ha (by simp)

theorem Memory.read_writeWord_low {a : Nat} {m : Memory} (w : Word) (h : m.wf p = true)
    (ha : a + 2 ≤ p.size) : (m.writeWord p a w).read p (a + 1) = lowByte w :=
  Memory.read_writeBytes (k := 1) (vs := [highByte w, lowByte w]) h ha (by simp)

theorem wordOfBytes_high_low (w : Word) : wordOfBytes (highByte w) (lowByte w) = w := by
  apply BitVec.eq_of_getLsbD_eq
  intro i hi
  simp only [wordOfBytes, highByte, lowByte, BitVec.getLsbD_append, BitVec.getLsbD_extractLsb']
  by_cases h : i < 8
  · simp [h]
  · have : i - 8 < 8 := by omega
    simp [h, this, show 8 + (i - 8) = i by omega]

/-- A word written is the word read back. -/
theorem Memory.readWord_writeWord {a : Nat} {m : Memory} (w : Word) (h : m.wf p = true)
    (ha : a + 2 ≤ p.size) : (m.writeWord p a w).readWord p a = w := by
  rw [Memory.readWord, Memory.read_writeWord_high w h ha, Memory.read_writeWord_low w h ha,
    wordOfBytes_high_low]

/-- After reset the bytes at 0 to 79 are the font's, and every other byte is 0. -/
theorem Memory.initial_of_lt {a : Nat} (h : a < 80) : Memory.initial p a = p.font[a] := by
  simp [Memory.initial, List.getD, h]

theorem Memory.initial_of_le {a : Nat} (h : 80 ≤ a) : Memory.initial p a = 0 := by
  simp [Memory.initial, List.getD, h]

theorem State.reset_mem_wf (p : Params) : (State.resetWith p).memWf = true := rfl

end Memory

/-! ### Memory of a state -/

/-- A byte depends on the memory and the parameters alone. -/
theorem State.byteAt_congr {s t : State} (hm : t.mem = s.mem) (hp : t.params = s.params) (a : Nat) :
    t.byteAt a = s.byteAt a := by
  simp [State.byteAt, hm, hp]

theorem State.memWf_store {s : State} {a : Nat} (vs : List Byte) (h : s.memWf = true)
    (ha : a + vs.length ≤ s.params.size) : (s.store a vs).memWf = true :=
  Memory.wf_writeBytes vs h ha

theorem State.byteAt_store {s : State} {a k : Nat} {vs : List Byte} (h : s.memWf = true)
    (ha : a + vs.length ≤ s.params.size) (hk : k < vs.length) :
    (s.store a vs).byteAt (a + k) = vs[k] :=
  Memory.read_writeBytes h ha hk

theorem State.byteAt_store_outside {a b : Nat} (s : State) (vs : List Byte)
    (hb : b < a ∨ a + vs.length ≤ b) : (s.store a vs).byteAt b = s.byteAt b :=
  Memory.read_writeBytes_outside s.mem vs hb

theorem State.memWf_storeWord {s : State} {a : Nat} (w : Word) (h : s.memWf = true)
    (ha : a + 2 ≤ s.params.size) : (s.storeWord a w).memWf = true :=
  Memory.wf_writeWord w h ha

theorem State.wordAt_storeWord {s : State} {a : Nat} (w : Word) (h : s.memWf = true)
    (ha : a + 2 ≤ s.params.size) : (s.storeWord a w).wordAt a = w :=
  Memory.readWord_writeWord w h ha

theorem State.byteAt_storeWord_high {s : State} {a : Nat} (w : Word) (h : s.memWf = true)
    (ha : a + 2 ≤ s.params.size) : (s.storeWord a w).byteAt a = highByte w :=
  Memory.read_writeWord_high w h ha

theorem State.byteAt_storeWord_low {s : State} {a : Nat} (w : Word) (h : s.memWf = true)
    (ha : a + 2 ≤ s.params.size) : (s.storeWord a w).byteAt (a + 1) = lowByte w :=
  Memory.read_writeWord_low w h ha

theorem State.byteAt_storeWord_outside {a b : Nat} (s : State) (w : Word)
    (hb : b < a ∨ a + 2 ≤ b) : (s.storeWord a w).byteAt b = s.byteAt b :=
  Memory.read_writeWord_outside s.mem w hb

/-! ### Registers -/

@[simp] theorem State.reg_setReg_self (s : State) (x : RegIdx) (b : Byte) :
    (s.setReg x b).reg x = b := by
  simp [State.reg, State.setReg]

@[simp] theorem State.reg_setReg_of_ne (s : State) {x r : RegIdx} (b : Byte) (h : r ≠ x) :
    (s.setReg x b).reg r = s.reg r := by
  have : x.val ≠ r.val := fun h' => h (Fin.ext h'.symm)
  simp [State.reg, State.setReg, Vector.getElem_set_ne _ _ this]

/-- A register depends on the register file alone. -/
theorem State.reg_congr {s t : State} (h : t.v = s.v) (r : RegIdx) : t.reg r = s.reg r := by
  simp [State.reg, h]

@[simp] theorem State.reg_advance (s : State) (r : RegIdx) : s.advance.reg r = s.reg r := rfl

@[simp] theorem State.reg_jump (s : State) (w : Word) (r : RegIdx) :
    (s.jump w).reg r = s.reg r := rfl

@[simp] theorem State.reg_skipIf (s : State) (c : Bool) (r : RegIdx) :
    (s.skipIf c).reg r = s.reg r := by cases c <;> rfl

@[simp] theorem State.reg_takeFault (s : State) (c : FaultCause) (r : RegIdx) :
    (s.takeFault c).reg r = s.reg r := rfl

@[simp] theorem State.reg_frameTickWith (s : State) (p : Poll) (r : RegIdx) :
    (s.frameTickWith p).reg r = s.reg r := rfl

@[simp] theorem State.reg_afterTick (s : State) (r : RegIdx) : s.afterTick.reg r = s.reg r :=
  State.reg_congr (by simp) r

theorem State.reg_setFlagIf_flag (s : State) (c : Bool) :
    (s.setFlagIf c).reg VF = if c then 1 else s.reg VF := by
  cases c
  · rfl
  · exact s.reg_setReg_self VF 1

theorem State.reg_setFlagIf_of_ne (s : State) (c : Bool) {r : RegIdx} (h : r ≠ VF) :
    (s.setFlagIf c).reg r = s.reg r := by
  cases c
  · rfl
  · exact s.reg_setReg_of_ne 1 h

@[simp] theorem State.byteAt_setReg (s : State) (x : RegIdx) (b : Byte) (a : Nat) :
    (s.setReg x b).byteAt a = s.byteAt a := rfl

@[simp] theorem State.byteAt_advance (s : State) (a : Nat) : s.advance.byteAt a = s.byteAt a := rfl

theorem length_regRange (x : RegIdx) : (regRange x).length = x.val + 1 := by
  simp [regRange]

theorem getElem_regRange (x : RegIdx) (k : Nat) (h : k < (regRange x).length) :
    ((regRange x)[k]).val = k := by
  simp [regRange]

theorem mem_regRange (x r : RegIdx) : r ∈ regRange x ↔ r ≤ x := by
  constructor
  · intro h
    obtain ⟨k, hk, rfl⟩ := List.getElem_of_mem h
    have := getElem_regRange x k hk
    rw [length_regRange] at hk
    exact Fin.le_def.2 (by omega)
  · intro h
    have hr := Fin.le_def.1 h
    have hk : r.val < (regRange x).length := by rw [length_regRange]; omega
    have := getElem_regRange x r.val hk
    exact (Fin.ext this : (regRange x)[r.val] = r) ▸ List.getElem_mem hk

/-- What loading a list of registers leaves in a register. -/
theorem State.reg_loadRegs (base : Nat) (rs : List RegIdx) (s : State) (r : RegIdx) :
    (s.loadRegs base rs).reg r = if r ∈ rs then s.byteAt (base + r.val) else s.reg r := by
  induction rs generalizing s with
  | nil => rfl
  | cons q rs ih =>
    rw [State.loadRegs, ih]
    by_cases hr : r ∈ rs
    · simp [hr]
    · by_cases hq : r = q
      · subst hq; simp [hr]
      · simp [hr, hq]

/-! ### The grid -/

theorem Grid.pixel_of_le {g : Grid} {px py : Nat} (h : 64 ≤ px ∨ 32 ≤ py) :
    g.pixel px py = false := by
  unfold Grid.pixel
  split
  · rw [BitVec.getMsbD, decide_eq_false (by omega), Bool.false_and]
  · rfl

@[simp] theorem Grid.pixel_clear (px py : Nat) : Grid.clear.pixel px py = false := by
  unfold Grid.pixel Grid.clear
  split <;> simp

/-- Flipping one pixel flips it and no other; outside the grid nothing happens. -/
theorem Grid.pixel_xorPixel (g : Grid) (px py qx qy : Nat) (bit : Bool) :
    (g.xorPixel px py bit).pixel qx qy =
      (g.pixel qx qy ^^ (bit && decide (px < 64) && decide (py < 32) &&
        decide (qx = px) && decide (qy = py))) := by
  unfold Grid.xorPixel
  by_cases hpy : py < 32
  · by_cases hb : (bit && decide (px < 64)) = true
    · simp only [hpy, hb, dif_pos, if_true]
      unfold Grid.pixel
      by_cases hqy : qy < 32
      · simp only [hqy, dif_pos]
        by_cases hy : qy = py
        · subst hy
          simp only [Vector.getElem_set_self, BitVec.getMsbD_xor]
          congr 1
          simp only [BitVec.getMsbD, BitVec.getLsbD_twoPow]
          simp only [Bool.and_eq_true, decide_eq_true_eq] at hb
          by_cases hqx : qx = px
          · subst hqx; simp [hb]; omega
          · by_cases hq64 : qx < 64
            · simp [hqx, show ¬ (63 - px = 64 - 1 - qx) by omega]
            · simp [hqx, hq64]
        · rw [Vector.getElem_set_ne _ _ (Ne.symm hy)]
          simp [hy]
      · have : qy ≠ py := by omega
        simp [hqy, this]
    · simp only [hpy, hb, dif_pos]
      simp
  · simp [hpy]

/-! ### Faults and bounds -/

/-- Everything the bounds check can answer. -/
theorem inMemory_cases {base len : Nat} {w : Word} {s t u : State}
    (h : inMemory base len w s t = .next u) :
    ((len = 0 ∨ base + len ≤ s.params.size) ∧ u = t) ∨
    (0 < len ∧ s.params.size < base + len ∧
      u = s.takeFault (.memoryOutOfRange (max base s.params.size) (some w))) := by
  unfold inMemory at h
  split at h
  · exact .inl ⟨‹_›, by simpa using h.symm⟩
  · exact .inr ⟨by omega, by omega, by simpa using h.symm⟩

theorem inMemory_of_inside {base len : Nat} {w : Word} {s t : State}
    (h : len = 0 ∨ base + len ≤ s.params.size) : inMemory base len w s t = .next t :=
  if_pos h

theorem inMemory_of_outside {base len : Nat} {w : Word} {s t : State} (h0 : 0 < len)
    (h : s.params.size < base + len) : inMemory base len w s t =
      .next (s.takeFault (.memoryOutOfRange (max base s.params.size) (some w))) :=
  if_neg (by omega)

end Sys2Proof.Machine
end

