-- ==== Sys2Proof/Laws/Alu.lean ====
section
/-! SUPPORT. What the shared flag-writing ALU operation leaves in the registers
(spec/41_register_alu.md R90). -/

namespace Sys2Proof.Machine

/-- The destination is written last. -/
theorem State.reg_aluWith_self (setting : AluVfRead) (flag result : Byte → Byte → Byte)
    (x y : RegIdx) (s : State) :
    (s.aluWith setting flag result x y).reg x =
      result
        (if x = VF ∧ setting = .afterFlag then flag (s.reg x) (s.reg y) else s.reg x)
        (if y = VF ∧ setting = .afterFlag then flag (s.reg x) (s.reg y) else s.reg y) := by
  have operand : ∀ r : RegIdx,
      operandAfterFlag setting r (s.reg r) (s.setReg VF (flag (s.reg x) (s.reg y))) =
        if r = VF ∧ setting = .afterFlag then flag (s.reg x) (s.reg y) else s.reg r := by
    intro r
    unfold operandAfterFlag
    by_cases hr : r = VF
    · subst hr; cases setting <;> simp
    · simp [hr]
  simp [State.aluWith, operand]

/-- The flag stands in `V[15]` unless that is the destination. -/
theorem State.reg_aluWith_flag (setting : AluVfRead) (flag result : Byte → Byte → Byte)
    {x : RegIdx} (y : RegIdx) (s : State) (hx : x ≠ VF) :
    (s.aluWith setting flag result x y).reg VF = flag (s.reg x) (s.reg y) := by
  simp [State.aluWith, Ne.symm hx]

theorem State.reg_aluWith_of_ne (setting : AluVfRead) (flag result : Byte → Byte → Byte)
    {x r : RegIdx} (y : RegIdx) (s : State) (hx : r ≠ x) (hf : r ≠ VF) :
    (s.aluWith setting flag result x y).reg r = s.reg r := by
  simp [State.aluWith, hx, hf]

end Sys2Proof.Machine
end

