-- ==== Sys2Proof/Laws/Decode.lean ====
section
/-! SUPPORT. The fields of each format's word, and the word of a list of bytes. -/

namespace Sys2Proof

@[simp] theorem regBits_toFin (x : RegIdx) : (regBits x).toFin = x := rfl

theorem extract_append_high {v w : Nat} (a : BitVec v) (b : BitVec w) :
    (a ++ b).extractLsb' w v = a := by
  apply BitVec.eq_of_getLsbD_eq
  intro i hi
  simp [hi, BitVec.getLsbD_append]

theorem extract_append_low {v w : Nat} (a : BitVec v) (b : BitVec w) :
    (a ++ b).extractLsb' 0 w = b := by
  apply BitVec.eq_of_getLsbD_eq
  intro i hi
  simp [hi, BitVec.getLsbD_append]

theorem extract_append_inside {v w lo n : Nat} (a : BitVec v) (b : BitVec w) (h : lo + n ≤ w) :
    (a ++ b).extractLsb' lo n = b.extractLsb' lo n := by
  apply BitVec.eq_of_getLsbD_eq
  intro i hi
  simp [hi, BitVec.getLsbD_append, show lo + i < w by omega]

@[simp] theorem fieldFam_wordNnn (f : BitVec 4) (nnn : BitVec 12) :
    fieldFam (wordNnn f nnn) = f := extract_append_high f nnn

@[simp] theorem fieldNnn_wordNnn (f : BitVec 4) (nnn : BitVec 12) :
    fieldNnn (wordNnn f nnn) = nnn := extract_append_low f nnn

@[simp] theorem fieldFam_wordXnn (f : BitVec 4) (x : RegIdx) (nn : Byte) :
    fieldFam (wordXnn f x nn) = f := extract_append_high f (regBits x ++ nn)

@[simp] theorem fieldX_wordXnn (f : BitVec 4) (x : RegIdx) (nn : Byte) :
    fieldX (wordXnn f x nn) = x := by
  unfold fieldX wordXnn
  rw [extract_append_inside f _ (by decide), extract_append_high (regBits x) nn]
  rfl

@[simp] theorem fieldNn_wordXnn (f : BitVec 4) (x : RegIdx) (nn : Byte) :
    fieldNn (wordXnn f x nn) = nn := by
  unfold fieldNn wordXnn
  rw [extract_append_inside f _ (by decide), extract_append_low (regBits x) nn]

@[simp] theorem fieldFam_wordXyn (f : BitVec 4) (x y : RegIdx) (n : BitVec 4) :
    fieldFam (wordXyn f x y n) = f := extract_append_high f (regBits x ++ (regBits y ++ n))

@[simp] theorem fieldX_wordXyn (f : BitVec 4) (x y : RegIdx) (n : BitVec 4) :
    fieldX (wordXyn f x y n) = x := by
  unfold fieldX wordXyn
  rw [extract_append_inside f _ (by decide), extract_append_high (regBits x) (regBits y ++ n)]
  rfl

@[simp] theorem fieldY_wordXyn (f : BitVec 4) (x y : RegIdx) (n : BitVec 4) :
    fieldY (wordXyn f x y n) = y := by
  unfold fieldY wordXyn
  rw [extract_append_inside f _ (by decide), extract_append_inside (regBits x) _ (by decide),
    extract_append_high (regBits y) n]
  rfl

@[simp] theorem fieldN_wordXyn (f : BitVec 4) (x y : RegIdx) (n : BitVec 4) :
    fieldN (wordXyn f x y n) = n := by
  unfold fieldN wordXyn
  rw [extract_append_inside f _ (by decide), extract_append_inside (regBits x) _ (by decide),
    extract_append_low (regBits y) n]

/-- Two bytes decode as the word they make. -/
theorem decodeBytes_pair (hi lo : Byte) (rest : List Byte) :
    decodeBytes (hi :: lo :: rest) = (decode (wordOfBytes hi lo)).map (·, rest) := by
  cases h : decode (wordOfBytes hi lo) <;> simp [decodeBytes, h, Except.map]

end Sys2Proof
end

