-- ==== Sys2Proof/Laws/Draw.lean ====
section
/-! SUPPORT. What the drawing loops do, said once (spec/43_display.md R114): a set of bits is put on the
grid by exclusive or, and the flag tells whether one of them met a set pixel. -/

namespace Sys2Proof.Machine

/-- `after` is `before` with `bits` drawn: exclusive or, and the flag of R114 carried along. -/
def Grid.Draws (bits : Nat → Nat → Bool) (before after : Grid × Bool) : Prop :=
  (∀ px py, after.1.pixel px py = (before.1.pixel px py ^^ bits px py)) ∧
  (after.2 = true ↔
    before.2 = true ∨ ∃ px py, before.1.pixel px py = true ∧ bits px py = true)

theorem Grid.Draws.none (acc : Grid × Bool) : Grid.Draws (fun _ _ => false) acc acc := by
  simp [Grid.Draws]

theorem Grid.Draws.of_eq {b c : Nat → Nat → Bool} {acc acc' : Grid × Bool}
    (h : Grid.Draws b acc acc') (e : ∀ px py, c px py = b px py) : Grid.Draws c acc acc' := by
  have : c = b := funext fun px => funext fun py => e px py
  exact this ▸ h

/-- Two draws one after the other, of bits that do not meet, are one draw of both. -/
theorem Grid.Draws.trans {b c : Nat → Nat → Bool} {acc acc' acc'' : Grid × Bool}
    (h : Grid.Draws b acc acc') (h' : Grid.Draws c acc' acc'')
    (apart : ∀ px py, b px py = true → c px py = false) :
    Grid.Draws (fun px py => b px py || c px py) acc acc'' := by
  refine ⟨fun px py => ?_, ?_⟩
  · rw [h'.1, h.1]
    have := apart px py
    cases hb : b px py <;> cases hc : c px py <;> simp_all
  · rw [h'.2, h.2]
    constructor
    · rintro ((h0 | ⟨px, py, hp, hb⟩) | ⟨px, py, hp, hc⟩)
      · exact .inl h0
      · exact .inr ⟨px, py, hp, by simp [hb]⟩
      · refine .inr ⟨px, py, ?_, by simp [hc]⟩
        rw [h.1] at hp
        cases hb : b px py
        · simpa [hb] using hp
        · simp [apart px py hb] at hc
    · rintro (h0 | ⟨px, py, hp, hbc⟩)
      · exact .inl (.inl h0)
      · cases hb : b px py
        · refine .inr ⟨px, py, ?_, by simpa [hb] using hbc⟩
          rw [h.1, hp, hb]; rfl
        · exact .inl (.inr ⟨px, py, hp, hb⟩)

/-- One bit of a row. -/
theorem Grid.draws_pixel (px py : Nat) (bit : Bool) (acc : Grid × Bool) :
    Grid.Draws
      (fun qx qy => bit && decide (px < 64) && decide (py < 32) && decide (qx = px) &&
        decide (qy = py))
      acc (acc.1.xorPixel px py bit, acc.2 || (bit && acc.1.pixel px py)) := by
  refine ⟨fun qx qy => Grid.pixel_xorPixel _ _ _ _ _ _, ?_⟩
  simp only [Bool.or_eq_true, Bool.and_eq_true, decide_eq_true_eq]
  constructor
  · rintro (h | ⟨hb, hp⟩)
    · exact .inl h
    · by_cases hin : 64 ≤ px ∨ 32 ≤ py
      · rw [Grid.pixel_of_le hin] at hp; simp at hp
      · exact .inr ⟨px, py, hp, by simp [hb]; omega⟩
  · rintro (h | ⟨qx, qy, hp, ⟨⟨⟨hb, -⟩, -⟩, rfl⟩, rfl⟩)
    · exact .inl h
    · exact .inr ⟨hb, hp⟩

/-- Bits `k` to `k + len - 1` of one sprite row. -/
theorem Grid.draws_bits (row : Byte) (x0 py : Nat) (len : Nat) : ∀ (k : Nat) (acc : Grid × Bool),
    Grid.Draws
      (fun qx qy => decide (qy = py) && decide (py < 32) && decide (x0 + k ≤ qx) &&
        decide (qx < x0 + k + len) && decide (qx < 64) && row.getMsbD (qx - x0))
      acc (Grid.drawBits row x0 py (List.range' k len) acc) := by
  induction len with
  | zero =>
    intro k acc
    exact (Grid.Draws.none acc).of_eq fun qx qy => by simp
  | succ len ih =>
    intro k acc
    rw [List.range'_succ, Grid.drawBits]
    split
    · rename_i h
      have h : 64 ≤ x0 + k := h
      exact (Grid.Draws.none acc).of_eq fun qx qy => by simp; omega
    · rename_i h
      have h : ¬ 64 ≤ x0 + k := h
      refine ((Grid.draws_pixel _ _ _ acc).trans (ih (k + 1) _) ?_).of_eq ?_
      · intro qx qy hq
        simp only [Bool.and_eq_true, decide_eq_true_eq] at hq
        have : ¬ (x0 + (k + 1) ≤ qx) := by omega
        simp [this]
      · intro qx qy
        by_cases hq : qx = x0 + k
        · subst hq
          by_cases hy : qy = py
          · subst hy
            simp [show x0 + k < 64 by omega]
            exact Bool.and_comm _ _
          · simp [hy]
        · have e1 : decide (x0 + k ≤ qx) = decide (x0 + (k + 1) ≤ qx) := by
            simp only [decide_eq_decide]; omega
          have e2 : decide (qx < x0 + k + (len + 1)) = decide (qx < x0 + (k + 1) + len) := by
            simp only [decide_eq_decide]; omega
          simp only [hq, e1, e2, decide_false, Bool.and_false, Bool.false_and, Bool.false_or]

/-- Rows `k` to `k + len - 1` of a sprite. -/
theorem Grid.draws_rows (byteAt : Nat → Byte) (base x0 y0 : Nat) (len : Nat) :
    ∀ (k : Nat) (acc : Grid × Bool),
    Grid.Draws
      (fun qx qy => decide (y0 + k ≤ qy) && spriteBit byteAt base x0 y0 (k + len) qx qy)
      acc (Grid.drawRows byteAt base x0 y0 (List.range' k len) acc) := by
  induction len with
  | zero =>
    intro k acc
    exact (Grid.Draws.none acc).of_eq fun qx qy => by simp [spriteBit]; omega
  | succ len ih =>
    intro k acc
    rw [List.range'_succ, Grid.drawRows, List.range_eq_range']
    refine ((Grid.draws_bits _ _ _ 8 0 acc).trans (ih (k + 1) _) ?_).of_eq ?_
    · intro qx qy hq
      simp only [Bool.and_eq_true, decide_eq_true_eq] at hq
      have : ¬ (y0 + (k + 1) ≤ qy) := by omega
      simp [this]
    · intro qx qy
      rw [show k + 1 + len = k + (len + 1) by omega]
      by_cases hy : qy = y0 + k
      · subst hy
        have e : y0 + k - y0 = k := by omega
        by_cases hx : x0 ≤ qx ∧ qx < x0 + 8
        · have e' : qx - x0 < 8 := by omega
          simp [spriteBit, hx.1, hx.2, e, e', BitVec.getMsbD]
          cases decide (qx < 64) <;> simp
        · have : (decide (x0 ≤ qx) && decide (qx < x0 + 8)) = false := by
            simp only [Bool.and_eq_false_iff, decide_eq_false_iff_not]; omega
          simp [spriteBit, this]
          intro _ h1 h2; omega
      · have e1 : decide (y0 + k ≤ qy) = decide (y0 + (k + 1) ≤ qy) := by
          simp only [decide_eq_decide]; omega
        simp only [hy, e1, decide_false, Bool.false_and, Bool.false_or]

end Sys2Proof.Machine
end

