-- ==== Sys2Proof/Laws/PerInstr.lean ====
section
/-! SUPPORT. The per-instruction families of LAWS.json: facts about an instruction as syntax, one lemma per
constructor. -/

/-- The word of an instruction belongs to its family: the top four bits of the encoded word are those
of the instruction's row in the opcode table (spec/30_encoding.md R61, R64). -/
def Sys2Proof.Laws.EncodedFamily.Statement (i : Sys2Proof.Instr) : Prop :=
  Sys2Proof.fieldFam (Sys2Proof.encode i) = Sys2Proof.fieldFam i.row.value

namespace Sys2Proof.Laws.EncodedFamily

open Sys2Proof

theorem cls : Statement .cls := rfl
theorem ret : Statement .ret := rfl
theorem jpNnn (nnn : BitVec 12) : Statement (.jpNnn nnn) :=
  (fieldFam_wordNnn 0x1#4 nnn).trans (by simp only [Instr.row]; decide)
theorem call (nnn : BitVec 12) : Statement (.call nnn) :=
  (fieldFam_wordNnn 0x2#4 nnn).trans (by simp only [Instr.row]; decide)
theorem seVxNn (x : RegIdx) (nn : Byte) : Statement (.seVxNn x nn) :=
  (fieldFam_wordXnn 0x3#4 x nn).trans (by simp only [Instr.row]; decide)
theorem sneVxNn (x : RegIdx) (nn : Byte) : Statement (.sneVxNn x nn) :=
  (fieldFam_wordXnn 0x4#4 x nn).trans (by simp only [Instr.row]; decide)
theorem seVxVy (x y : RegIdx) : Statement (.seVxVy x y) :=
  (fieldFam_wordXyn 0x5#4 x y 0x0#4).trans (by simp only [Instr.row]; decide)
theorem ldVxNn (x : RegIdx) (nn : Byte) : Statement (.ldVxNn x nn) :=
  (fieldFam_wordXnn 0x6#4 x nn).trans (by simp only [Instr.row]; decide)
theorem addVxNn (x : RegIdx) (nn : Byte) : Statement (.addVxNn x nn) :=
  (fieldFam_wordXnn 0x7#4 x nn).trans (by simp only [Instr.row]; decide)
theorem ldVxVy (x y : RegIdx) : Statement (.ldVxVy x y) :=
  (fieldFam_wordXyn 0x8#4 x y 0x0#4).trans (by simp only [Instr.row]; decide)
theorem orVxVy (x y : RegIdx) : Statement (.orVxVy x y) :=
  (fieldFam_wordXyn 0x8#4 x y 0x1#4).trans (by simp only [Instr.row]; decide)
theorem andVxVy (x y : RegIdx) : Statement (.andVxVy x y) :=
  (fieldFam_wordXyn 0x8#4 x y 0x2#4).trans (by simp only [Instr.row]; decide)
theorem xorVxVy (x y : RegIdx) : Statement (.xorVxVy x y) :=
  (fieldFam_wordXyn 0x8#4 x y 0x3#4).trans (by simp only [Instr.row]; decide)
theorem addVxVy (x y : RegIdx) : Statement (.addVxVy x y) :=
  (fieldFam_wordXyn 0x8#4 x y 0x4#4).trans (by simp only [Instr.row]; decide)
theorem subVxVy (x y : RegIdx) : Statement (.subVxVy x y) :=
  (fieldFam_wordXyn 0x8#4 x y 0x5#4).trans (by simp only [Instr.row]; decide)
theorem shrVxVy (x y : RegIdx) : Statement (.shrVxVy x y) :=
  (fieldFam_wordXyn 0x8#4 x y 0x6#4).trans (by simp only [Instr.row]; decide)
theorem subnVxVy (x y : RegIdx) : Statement (.subnVxVy x y) :=
  (fieldFam_wordXyn 0x8#4 x y 0x7#4).trans (by simp only [Instr.row]; decide)
theorem shlVxVy (x y : RegIdx) : Statement (.shlVxVy x y) :=
  (fieldFam_wordXyn 0x8#4 x y 0xE#4).trans (by simp only [Instr.row]; decide)
theorem sneVxVy (x y : RegIdx) : Statement (.sneVxVy x y) :=
  (fieldFam_wordXyn 0x9#4 x y 0x0#4).trans (by simp only [Instr.row]; decide)
theorem ldINnn (nnn : BitVec 12) : Statement (.ldINnn nnn) :=
  (fieldFam_wordNnn 0xA#4 nnn).trans (by simp only [Instr.row]; decide)
theorem jpV0 (nnn : BitVec 12) : Statement (.jpV0 nnn) :=
  (fieldFam_wordNnn 0xB#4 nnn).trans (by simp only [Instr.row]; decide)
theorem rnd (x : RegIdx) (nn : Byte) : Statement (.rnd x nn) :=
  (fieldFam_wordXnn 0xC#4 x nn).trans (by simp only [Instr.row]; decide)
theorem drw (x y : RegIdx) (n : Nat) : Statement (.drw x y n) :=
  (fieldFam_wordXyn 0xD#4 x y (BitVec.ofNat 4 n)).trans (by simp only [Instr.row]; decide)
theorem skp (x : RegIdx) : Statement (.skp x) :=
  (fieldFam_wordXnn 0xE#4 x 0x9E#8).trans (by simp only [Instr.row]; decide)
theorem sknp (x : RegIdx) : Statement (.sknp x) :=
  (fieldFam_wordXnn 0xE#4 x 0xA1#8).trans (by simp only [Instr.row]; decide)
theorem ldVxDt (x : RegIdx) : Statement (.ldVxDt x) :=
  (fieldFam_wordXnn 0xF#4 x 0x07#8).trans (by simp only [Instr.row]; decide)
theorem ldVxK (x : RegIdx) : Statement (.ldVxK x) :=
  (fieldFam_wordXnn 0xF#4 x 0x0A#8).trans (by simp only [Instr.row]; decide)
theorem ldDtVx (x : RegIdx) : Statement (.ldDtVx x) :=
  (fieldFam_wordXnn 0xF#4 x 0x15#8).trans (by simp only [Instr.row]; decide)
theorem ldStVx (x : RegIdx) : Statement (.ldStVx x) :=
  (fieldFam_wordXnn 0xF#4 x 0x18#8).trans (by simp only [Instr.row]; decide)
theorem addIVx (x : RegIdx) : Statement (.addIVx x) :=
  (fieldFam_wordXnn 0xF#4 x 0x1E#8).trans (by simp only [Instr.row]; decide)
theorem ldFVx (x : RegIdx) : Statement (.ldFVx x) :=
  (fieldFam_wordXnn 0xF#4 x 0x29#8).trans (by simp only [Instr.row]; decide)
theorem ldBVx (x : RegIdx) : Statement (.ldBVx x) :=
  (fieldFam_wordXnn 0xF#4 x 0x33#8).trans (by simp only [Instr.row]; decide)
theorem ldMiVx (x : RegIdx) : Statement (.ldMiVx x) :=
  (fieldFam_wordXnn 0xF#4 x 0x55#8).trans (by simp only [Instr.row]; decide)
theorem ldVxMi (x : RegIdx) : Statement (.ldVxMi x) :=
  (fieldFam_wordXnn 0xF#4 x 0x65#8).trans (by simp only [Instr.row]; decide)

end Sys2Proof.Laws.EncodedFamily
end

