-- ==== Sys2Proof/Laws/Step.lean ====
section
/-! SUPPORT. Everything a step, an instruction tick and the end of a tick can be: later proofs cite these
cases instead of unfolding `step`. -/

namespace Sys2Proof.Machine

theorem afterTickResult_eq_next {r : Result} {t : State} (h : afterTickResult r = .next t) :
    ∃ u, r = .next u ∧ t = u.afterTick := by
  cases r with
  | next u => exact ⟨u, rfl, by simpa [afterTickResult] using h.symm⟩
  | fault r => simp [afterTickResult] at h
  | refused r => simp [afterTickResult] at h

/-- A step that answers a next state is one event of a running machine. -/
theorem step_cases {s t : State} (h : step s = .next t) :
    s.status = .running ∧
    ((s.arbiter.turn = .instr ∧ ∃ u, instrTick s = .next u ∧ t = u.afterTick) ∨
      (s.arbiter.turn = .frame ∧ t = s.frameTick.afterTick)) := by
  unfold step at h
  split at h
  · rename_i hs
    refine ⟨hs, ?_⟩
    unfold State.event at h
    split at h
    · exact .inl ⟨‹_›, afterTickResult_eq_next h⟩
    · obtain ⟨u, hu, rfl⟩ := afterTickResult_eq_next h
      exact .inr ⟨‹_›, by simp_all⟩
  · simp at h
  · simp at h

theorem step_of_instr {s : State} (hs : s.status = .running) (ht : s.arbiter.turn = .instr) :
    step s = afterTickResult (instrTick s) := by
  unfold step State.event; simp [hs, ht]

theorem step_of_frame {s : State} (hs : s.status = .running) (ht : s.arbiter.turn = .frame) :
    step s = .next s.frameTick.afterTick := by
  unfold step State.event; simp [hs, ht, afterTickResult]

theorem State.fetch_of_inside {s : State} (h : s.pc.toNat + 1 < s.params.size) :
    s.fetch = .ok (s.wordAt s.pc.toNat) := if_pos h

theorem State.fetch_of_outside {s : State} (h : s.params.size ≤ s.pc.toNat + 1) :
    s.fetch = .error (max s.pc.toNat s.params.size) := if_neg (by omega)

theorem instrTick_of_decoded {s : State} {w : Word} {i : Instr} (hw : s.fetch = .ok w)
    (hi : decode w = .ok i) : instrTick s = exec i s := by
  unfold instrTick; simp [hw, hi]

theorem instrTick_of_rejected {s : State} {w : Word} {r : Reject} (hw : s.fetch = .ok w)
    (hr : decode w = .error r) :
    instrTick s = .next (s.takeFault (.unsupportedInstruction w)) := by
  unfold instrTick; simp [hw, hr]

theorem instrTick_of_no_word {s : State} {a : Nat} (ha : s.fetch = .error a) :
    instrTick s = .next (s.takeFault (.memoryOutOfRange a none)) := by
  unfold instrTick; simp [ha]

/-- The three ways an instruction tick goes (spec/60_exceptions.md R137). -/
theorem instrTick_cases (s : State) :
    (∃ a, s.fetch = .error a ∧ instrTick s = .next (s.takeFault (.memoryOutOfRange a none))) ∨
    (∃ w r, s.fetch = .ok w ∧ decode w = .error r ∧
      instrTick s = .next (s.takeFault (.unsupportedInstruction w))) ∨
    (∃ w i, s.fetch = .ok w ∧ decode w = .ok i ∧ instrTick s = exec i s) := by
  cases hf : s.fetch with
  | error a => exact .inl ⟨a, rfl, instrTick_of_no_word hf⟩
  | ok w =>
    cases hd : decode w with
    | error r => exact .inr (.inl ⟨w, r, rfl, hd, instrTick_of_rejected hf hd⟩)
    | ok i => exact .inr (.inr ⟨w, i, rfl, hd, instrTick_of_decoded hf hd⟩)

end Sys2Proof.Machine
end

