-- ==== Sys2Proof/Tests/Slice0.lean ====
section
/-! SUPPORT. The model's own tests: the smoke test of WellFormed, a word of each constructor written out
from the spec's encoding (spec/30_encoding.md R61, R76), the vectors of spec/95_test_vectors.md (named in
the comments) on one tick each, and a witness for the hypotheses of each statement. -/

namespace Sys2Proof.Tests

open Sys2Proof.Machine

/-- The start state of the vectors: reset, with an instruction tick next. -/
def start : State := { State.reset with arbiter := ⟨.instr, 0, 1⟩ }

/-- Some registers set. -/
def regs (rs : List (RegIdx × Byte)) (s : State) : State :=
  rs.foldl (fun t p => t.setReg p.1 p.2) s

/-- One instruction tick on a word placed at `PC`. -/
def tick (w : Nat) (s : State) : Option State :=
  match instrTick (s.withFetchWord 16 w) with
  | .next t => some t
  | .fault _ => none
  | .refused _ => none

/-- `PC` after one instruction tick. -/
def pcAfter (w : Nat) (s : State) : Option Word := (tick w s).map (·.pc)

/-- A register after one instruction tick. -/
def regAfter (w : Nat) (x : RegIdx) (s : State) : Option Byte := (tick w s).map (·.reg x)

/-- The destination `V1` and the flag after one instruction tick. -/
def aluAfter (w : Nat) (s : State) : Option (Byte × Byte) :=
  (tick w s).map fun t => (t.reg 1, t.reg VF)

/-- `status` and `PC` after one instruction tick. -/
def statusAfter (w : Nat) (s : State) : Option (Status × Word) :=
  (tick w s).map fun t => (t.status, t.pc)

/-! ### WellFormed -/

/-- The one check: a row count above 15 (R63). -/
theorem test_wellFormed_refuses_sixteen_rows : (Instr.drw 0 0 16).wellFormed = false := by decide

theorem test_wellFormed_admits_fifteen_rows : (Instr.drw 15 15 15).wellFormed = true := by decide

/-! ### Decoding: every constructor, its word bit by bit from the patterns of R76 -/

theorem test_decode_family0 :
    decode 0b0000000011100000#16 = .ok .cls ∧ decode 0b0000000011101110#16 = .ok .ret := by decide

theorem test_decode_addresses :
    decode 0b0001101010111100#16 = .ok (.jpNnn 0xABC#12) ∧
    decode 0b0010101010111100#16 = .ok (.call 0xABC#12) ∧
    decode 0b1010001100000000#16 = .ok (.ldINnn 0x300#12) ∧
    decode 0b1011111111111110#16 = .ok (.jpV0 0xFFE#12) := by decide

theorem test_decode_immediates :
    decode 0b0011001100010000#16 = .ok (.seVxNn 3 0x10#8) ∧
    decode 0b0100001100010001#16 = .ok (.sneVxNn 3 0x11#8) ∧
    decode 0b0110101001111011#16 = .ok (.ldVxNn 10 0x7B#8) ∧
    decode 0b0111000111111111#16 = .ok (.addVxNn 1 0xFF#8) ∧
    decode 0b1100001100001111#16 = .ok (.rnd 3 0x0F#8) := by decide

/-- CL8 and CL9: bits 3:0 of families 5 and 9 are ignored (R71). -/
theorem test_decode_register_skips :
    decode 0b0101000100100001#16 = .ok (.seVxVy 1 2) ∧
    decode 0b1001101010110111#16 = .ok (.sneVxVy 10 11) := by decide

theorem test_decode_family8_logic :
    decode 0b1000000100100000#16 = .ok (.ldVxVy 1 2) ∧
    decode 0b1000000100100001#16 = .ok (.orVxVy 1 2) ∧
    decode 0b1000000100100010#16 = .ok (.andVxVy 1 2) ∧
    decode 0b1000000100100011#16 = .ok (.xorVxVy 1 2) := by decide

theorem test_decode_family8_arithmetic :
    decode 0b1000000100100100#16 = .ok (.addVxVy 1 2) ∧
    decode 0b1000000100100101#16 = .ok (.subVxVy 1 2) ∧
    decode 0b1000000100100110#16 = .ok (.shrVxVy 1 2) ∧
    decode 0b1000000100100111#16 = .ok (.subnVxVy 1 2) ∧
    decode 0b1000000100101110#16 = .ok (.shlVxVy 1 2) := by decide

theorem test_decode_draw_and_keys :
    decode 0b1101000100100101#16 = .ok (.drw 1 2 5) ∧
    decode 0b1110000110011110#16 = .ok (.skp 1) ∧
    decode 0b1110000110100001#16 = .ok (.sknp 1) := by decide

theorem test_decode_familyF_timers_and_index :
    decode 0b1111000100000111#16 = .ok (.ldVxDt 1) ∧
    decode 0b1111000100001010#16 = .ok (.ldVxK 1) ∧
    decode 0b1111000000010101#16 = .ok (.ldDtVx 0) ∧
    decode 0b1111001000011000#16 = .ok (.ldStVx 2) ∧
    decode 0b1111001000011110#16 = .ok (.addIVx 2) := by decide

theorem test_decode_familyF_memory :
    decode 0b1111000000101001#16 = .ok (.ldFVx 0) ∧
    decode 0b1111000000110011#16 = .ok (.ldBVx 0) ∧
    decode 0b1111001001010101#16 = .ok (.ldMiVx 2) ∧
    decode 0b1111111101100101#16 = .ok (.ldVxMi 15) := by decide

/-- CL1, CL3, CL5, CL6, CL10, CL12, CL14, CL17 to CL19: words that are no instruction. -/
theorem test_decode_unsupported :
    decode 0x0000#16 = .error .family0 ∧ decode 0x00E1#16 = .error .family0 ∧
    decode 0x0123#16 = .error .family0 ∧ decode 0x01E0#16 = .error .family0 ∧
    decode 0x8008#16 = .error .family8 ∧ decode 0x800F#16 = .error .family8 ∧
    decode 0xE09F#16 = .error .familyE ∧ decode 0xF075#16 = .error .familyF ∧
    decode 0xF0FF#16 = .error .familyF ∧ decode 0xFFFF#16 = .error .familyF := by decide

/-- A word's first byte in memory is bits 15:8 (R43), and one byte is no word. -/
theorem test_decode_bytes_high_first :
    decodeBytes [0xD1, 0x25, 0x12] = .ok (.drw 1 2 5, [0x12]) ∧
    decodeBytes [0xD1] = .error .truncated := by decide

theorem test_decodeTableWord : decodeTableWord 16 0xF265 = some (.ldVxMi 2) := by decide

/-- The next step runs the word that `withFetchWord` places (A19). -/
theorem test_withFetchWord_runs_next :
    (match step (State.reset.withFetchWord 16 0x6A7B) with
      | .next t => some (t.reg 10)
      | .fault _ => none
      | .refused _ => none) = some 0x7B := by decide

/-! ### Fetch and cycle -/

/-- FE2: the last full word in memory fetches. -/
theorem test_fetch_last_word :
    pcAfter 0x1200 { start with pc := 0xFFD } = some 0x200 := by decide

/-- FE3: the second byte of the word does not exist. -/
theorem test_fetch_half_outside :
    instrTick { start with pc := 0xFFE } =
      .next { start with
        pc := 0xFFE, status := .faulted ⟨.memoryOutOfRange 0xFFF none, 0xFFE⟩ } := rfl

/-- FE5, PG6. -/
theorem test_unsupported_word :
    statusAfter 0x8008 start =
      some (.faulted ⟨.unsupportedInstruction 0x8008, 0x200⟩, 0x200) := by decide

/-! ### Control transfer -/

/-- J1 and J2. -/
theorem test_jump : pcAfter 0x1ABC start = some 0xABC ∧
    pcAfter 0x1206 { start with pc := 0x206 } = some 0x206 := by decide

/-- J3: high byte at the lower address. -/
theorem test_call_pushes :
    (tick 0x2ABC { start with pc := 0x300 }).map
      (fun t => (t.byteAt 0xFFD, t.byteAt 0xFFE, t.sp, t.pc)) =
      some (0x03, 0x02, 2, 0xABC) := by decide

/-- J5. -/
theorem test_call_overflows :
    statusAfter 0x2ABC { start with pc := 0x300, sp := 4094 } =
      some (.faulted ⟨.stackOverflow 4094 0x2ABC, 0x300⟩, 0x300) := by decide

/-- J6. -/
theorem test_return_pops :
    (tick 0x00EE { start with sp := 2, mem := [(0xFFD, 0x02), (0xFFE, 0x06)] }).map
      (fun t => (t.pc, t.sp, t.byteAt 0xFFD)) = some (0x206, 0, 0x02) := by decide

/-- J7. -/
theorem test_return_underflows :
    statusAfter 0x00EE start = some (.faulted ⟨.stackUnderflow 0x00EE, 0x200⟩, 0x200) := by decide

/-- J8 and J9. -/
theorem test_skip_if_immediate :
    pcAfter 0x3310 (regs [(3, 0x10)] start) = some 0x204 ∧
    pcAfter 0x3311 (regs [(3, 0x10)] start) = some 0x202 := by decide

/-- J10 and J11. -/
theorem test_skip_if_not_immediate :
    pcAfter 0x4311 (regs [(3, 0x10)] start) = some 0x204 ∧
    pcAfter 0x4310 (regs [(3, 0x10)] start) = some 0x202 := by decide

/-- J13 and J14. -/
theorem test_skip_if_equal :
    pcAfter 0x5127 (regs [(1, 7), (2, 7)] start) = some 0x204 ∧
    pcAfter 0x5120 (regs [(1, 7), (2, 8)] start) = some 0x202 := by decide

/-- J16 and J17. -/
theorem test_skip_if_not_equal :
    pcAfter 0x9110 (regs [(1, 7)] start) = some 0x202 ∧
    pcAfter 0x9129 (regs [(1, 7), (2, 8)] start) = some 0x204 := by decide

/-- J19: the sum is not masked to 12 bits. -/
theorem test_jump_offset : pcAfter 0xBFFF (regs [(0, 0xFF)] start) = some 0x10FE := by decide

/-! ### Registers and arithmetic -/

/-- A19 and A15. -/
theorem test_load_register :
    regAfter 0x6A7B 10 start = some 0x7B ∧
    regAfter 0x8120 1 (regs [(2, 0x42)] start) = some 0x42 := by decide

/-- A20 and A21: no flag, even where the destination is `VF`. -/
theorem test_add_immediate :
    aluAfter 0x71FF (regs [(15, 9)] start) = some (0xFF, 9) ∧
    regAfter 0x7FFF 15 (regs [(15, 1)] start) = some 0 := by decide

/-- A16, A17 and A18. -/
theorem test_logic :
    aluAfter 0x8121 (regs [(1, 0xF0), (2, 0x0F), (15, 7)] start) = some (0xFF, 7) ∧
    regAfter 0x8122 1 (regs [(1, 0xF0), (2, 0x3C)] start) = some 0x30 ∧
    regAfter 0x8123 1 (regs [(1, 0xFF), (2, 0x0F)] start) = some 0xF0 := by decide

/-- A1 and A2. -/
theorem test_add_carry :
    aluAfter 0x8124 (regs [(1, 0xFF), (2, 0x01)] start) = some (0x00, 1) ∧
    aluAfter 0x8124 (regs [(1, 0x7F), (2, 0x80)] start) = some (0xFF, 0) := by decide

/-- A4, A6 and A7. -/
theorem test_subtract :
    aluAfter 0x8125 (regs [(1, 5), (2, 3)] start) = some (2, 1) ∧
    aluAfter 0x8125 (regs [(1, 1), (2, 1)] start) = some (0, 0) ∧
    aluAfter 0x8125 (regs [(1, 1), (2, 2)] start) = some (0xFF, 0) := by decide

/-- A10 and A12. -/
theorem test_subtract_reversed :
    aluAfter 0x8127 (regs [(1, 3), (2, 5)] start) = some (2, 1) ∧
    aluAfter 0x8127 (regs [(1, 5), (2, 3)] start) = some (0xFE, 0) := by decide

/-- A8 and A9; `V2` is not read. -/
theorem test_shift_right :
    aluAfter 0x8126 (regs [(1, 5), (2, 0xFF)] start) = some (2, 1) ∧
    aluAfter 0x8126 (regs [(1, 4), (2, 0xFF)] start) = some (2, 0) := by decide

/-- A13 and A14. -/
theorem test_shift_left :
    aluAfter 0x812E (regs [(1, 0x81)] start) = some (0x02, 1) ∧
    aluAfter 0x812E (regs [(1, 0x40)] start) = some (0x80, 0) := by decide

/-- A24: 8F14 under both settings. -/
theorem test_alias_add_destination :
    ((regs [(15, 0x10), (1, 0xF5)] start).aluWith .afterFlag carryFlag (fun a b => a + b) 15 1).reg 15
      = 0xF6 ∧
    ((regs [(15, 0x10), (1, 0xF5)] start).aluWith .beforeFlag carryFlag (fun a b => a + b) 15 1).reg 15
      = 0x05 := by decide

/-- A26: 81F5 under both settings. -/
theorem test_alias_subtract_source :
    ((regs [(1, 5), (15, 3)] start).aluWith .afterFlag greaterFlag (fun a b => a - b) 1 15).reg 1 = 4 ∧
    ((regs [(1, 5), (15, 3)] start).aluWith .beforeFlag greaterFlag (fun a b => a - b) 1 15).reg 1 = 2
    := by decide

/-- A28: 8F06 under both settings. -/
theorem test_alias_shift_right :
    ((regs [(15, 3)] start).aluWith .afterFlag (fun a _ => lowBitFlag a) (fun a _ => a >>> 1) 15 0).reg
      15 = 0 ∧
    ((regs [(15, 3)] start).aluWith .beforeFlag (fun a _ => lowBitFlag a) (fun a _ => a >>> 1) 15 0).reg
      15 = 1 := by decide

/-- A22: the draw under the mask. -/
theorem test_random_masked : (start.rndWith 0xAB 3 0x0F).reg 3 = 0x0B := by decide

/-! ### Index register and memory -/

/-- M1. -/
theorem test_load_index : (tick 0xA300 start).map (·.i) = some 0x300 := by decide

/-- M2 and M4. -/
theorem test_add_index :
    (tick 0xF21E { regs [(2, 1)] start with i := 0x0FFF }).map (fun t => (t.i, t.reg VF))
      = some (0x1000, 1) ∧
    (tick 0xF21E { regs [(2, 1)] start with i := 0xFFFF }).map (fun t => (t.i, t.reg VF))
      = some (0, 0) := by decide

/-- M3 and M6: the flag is left alone below 0x1000, and the addend is `VF` before the flag. -/
theorem test_add_index_flag :
    (tick 0xF21E { regs [(2, 0x10), (15, 5)] start with i := 0x100 }).map
      (fun t => (t.i, t.reg VF)) = some (0x110, 5) ∧
    (tick 0xFF1E { regs [(15, 0x20)] start with i := 0x0FF0 }).map
      (fun t => (t.i, t.reg VF)) = some (0x1010, 1) := by decide

/-- M8: the low digit only. -/
theorem test_glyph_address : (tick 0xF029 (regs [(0, 0x1A)] start)).map (·.i) = some 0x32 := by decide

/-- M9. -/
theorem test_decimal_digits :
    (tick 0xF033 { regs [(0, 123)] start with i := 0x300 }).map
      (fun t => (t.byteAt 0x300, t.byteAt 0x301, t.byteAt 0x302, t.i))
      = some (1, 2, 3, 0x300) := by decide

/-- M13. -/
theorem test_decimal_digits_fault :
    (tick 0xF033 { regs [(0, 7)] start with i := 0xFFD }).map
      (fun t => (t.status, t.byteAt 0xFFD, t.byteAt 0xFFE))
      = some (.faulted ⟨.memoryOutOfRange 0xFFF (some 0xF033), 0x200⟩, 0, 0) := by decide

/-- M14: the byte after the range stays. -/
theorem test_store_registers :
    (tick 0xF255 { regs [(0, 1), (1, 2), (2, 3), (3, 4)] start with i := 0x300 }).map
      (fun t => (t.byteAt 0x300, t.byteAt 0x301, t.byteAt 0x302, t.byteAt 0x303, t.i))
      = some (1, 2, 3, 0, 0x300) := by decide

/-- M16. -/
theorem test_store_registers_fault :
    (tick 0xFF55 { regs [(0, 9)] start with i := 0xFF0 }).map
      (fun t => (t.status, t.byteAt 0xFF0))
      = some (.faulted ⟨.memoryOutOfRange 0xFFF (some 0xFF55), 0x200⟩, 0) := by decide

/-- M17, its first three registers; the fourth stays. -/
theorem test_load_registers :
    (tick 0xF265 { start with i := 0x300, mem := [(0x300, 16), (0x301, 17), (0x302, 18), (0x303, 19)] }).map
      (fun t => (t.reg 0, t.reg 1, t.reg 2, t.reg 3, t.i)) = some (16, 17, 18, 0, 0x300) := by decide

/-- M19. -/
theorem test_load_registers_fault :
    (tick 0xF165 { regs [(0, 9)] start with i := 0xFFE }).map (fun t => (t.status, t.reg 0))
      = some (.faulted ⟨.memoryOutOfRange 0xFFF (some 0xF165), 0x200⟩, 9) := by decide

/-! ### Pixel grid -/

/-- DR1. -/
theorem test_clear :
    (tick 0x00E0 { start with grid := (State.reset.grid.xorPixel 3 4 true).xorPixel 63 31 true }).map
      (fun t => (t.grid.pixel 3 4, t.grid.pixel 63 31, t.pc)) = some (false, false, 0x202) := by decide

/-- DR2 and DR3: the origin wraps, the row does not. -/
theorem test_draw_wraps_and_clips :
    (tick 0xD011 { regs [(0, 70), (1, 33)] start with i := 0x300, mem := [(0x300, 0x80)] }).map
      (fun t => (t.grid.pixel 6 1, t.reg VF)) = some (true, 0) ∧
    (tick 0xD011 { regs [(0, 60)] start with i := 0x300, mem := [(0x300, 0xFF)] }).map
      (fun t => (t.grid.pixel 60 0, t.grid.pixel 63 0, t.grid.pixel 0 0, t.grid.pixel 0 1))
      = some (true, true, false, false) := by decide

/-- DR9 and DR5: a collision in row 1, and a row that does not exist. -/
theorem test_draw_collides_and_faults :
    (tick 0xD012 { start with
        i := 0x300, mem := [(0x300, 0x80), (0x301, 0x80)]
        grid := State.reset.grid.xorPixel 0 1 true }).map
      (fun t => (t.grid.pixel 0 0, t.grid.pixel 0 1, t.reg VF)) = some (true, false, 1) ∧
    (tick 0xD012 { start with i := 0xFFE }).map (·.status)
      = some (.faulted ⟨.memoryOutOfRange 0xFFF (some 0xD012), 0x200⟩) := by decide

/-! ### Keys and timers -/

/-- T1, T3 and T4. -/
theorem test_skip_if_key :
    pcAfter 0xE19E { regs [(1, 5)] start with keyActive := true, key := 5 } = some 0x204 ∧
    pcAfter 0xE19E { regs [(1, 5)] start with key := 5 } = some 0x202 ∧
    pcAfter 0xE19E { regs [(1, 0x15)] start with keyActive := true, key := 5 } = some 0x202 := by
  decide

/-- T5, T6 and T7. -/
theorem test_skip_if_other_key :
    pcAfter 0xE1A1 { regs [(1, 6)] start with keyActive := true, key := 5 } = some 0x204 ∧
    pcAfter 0xE1A1 { regs [(1, 5)] start with keyActive := true, key := 5 } = some 0x202 ∧
    pcAfter 0xE1A1 (regs [(1, 6)] start) = some 0x202 := by decide

/-- T10. -/
theorem test_read_delay : regAfter 0xF107 1 { start with dt := 3 } = some 3 := by decide

/-- T11 and T12. -/
theorem test_write_timers :
    (tick 0xF015 (regs [(0, 5)] start)).map (fun t => (t.dt, t.st)) = some (5, 0) ∧
    (tick 0xF218 (regs [(2, 0x3C)] start)).map (fun t => (t.dt, t.st)) = some (0, 0x3C) := by decide

/-- T13 and T14. -/
theorem test_wait_for_key :
    (tick 0xF30A (regs [(3, 1)] start)).map (fun t => (t.pc, t.reg 3)) = some (0x200, 1) ∧
    (tick 0xF30A { start with keyActive := true, key := 0xC }).map (fun t => (t.pc, t.reg 3))
      = some (0x202, 0x0C) := by decide

/-- A poll without key and quit, and a poll that quits. -/
def quiet : Poll := ⟨false, false, 0⟩

/-- T9, its second tick: the tone is that of `ST` before the decrement. -/
theorem test_frame_tick :
    let t := State.frameTickWith quiet { start with dt := 4, st := 1, pc := 0x204 }
    (t.dt, t.st, t.pc, t.status, t.output.map (·.tone)) = (3, 0, 0x204, .running, some true) := by
  decide

/-- T15: no render, timers decremented, latch updated. -/
theorem test_frame_tick_quit :
    let t := State.frameTickWith ⟨true, true, 5⟩ { start with dt := 4 }
    (t.dt, t.keyActive, t.key, t.status, t.output.map (·.display.isNone))
      = (3, true, 5, .terminated, some true) := by
  decide

/-! ### Reset and load -/

/-- R41 with G1: the last glyph byte, and the byte after the font. -/
theorem test_reset_memory :
    State.reset.byteAt 79 = 0x80 ∧ State.reset.byteAt 80 = 0 ∧ State.reset.byteAt 25 = 0xF0 := by
  decide

/-- PG4's image of nine bytes. -/
theorem test_boot_odd_image :
    (match boot [0xA2, 0x08, 0xD0, 0x11, 0xD0, 0x11, 0x12, 0x06, 0xC3] with
      | .next t => some (t.byteAt 0x200, t.byteAt 0x208, t.byteAt 0x209)
      | .fault _ => none
      | .refused _ => none) = some (0xA2, 0xC3, 0) := by decide

/-- A write of what an unlisted address reads as takes the entry out. -/
theorem test_memory_write_canonical :
    Memory.write Config.params [(0x300, 7)] 0x300 0 = [] ∧
    Memory.write Config.params [] 0 0xF0 = [] := by decide

/-! ### The parameters of R7 -/

/-- The start state of a machine with 4096 bytes. -/
def start4096 : State := { start with params := { Config.params with memSize := .bytes4096 } }

/-- R59 at `MEM_SIZE = 4096`: the first slot is the topmost two bytes. -/
theorem test_first_slot_4096 : start4096.pushAddr = 0xFFE := by decide

/-- R72 and R132 at `MEM_SIZE = 4096`: the word at 0xFFE exists, that at 0xFFF does not. -/
theorem test_fetch_4096 :
    ({ start4096 with pc := 0xFFE } : State).fetch = .ok 0 ∧
    ({ start4096 with pc := 0xFFF } : State).fetch = .error 0x1000 := ⟨rfl, rfl⟩

/-- R41 and R160 with another `FONT`. -/
theorem test_reset_other_font :
    let s := State.resetWith { Config.params with font := Vector.replicate 80 0x55 }
    (s.byteAt 0, s.byteAt 79, s.byteAt 80) = (0x55, 0x55, 0) := by decide

/-! ### The timed reference of R149 -/

/-- Readings 1, 2, 3 from time 0 of a jump to itself: one instruction tick, at 2; and at 17 both ticks. -/
theorem test_timed_reference :
    (match timedReference 0 [1, 2, 3] (start.withFetchWord 16 0x1200) with
      | (c, .next t) => some (c, t.pollCount, t.pc)
      | (_, .fault _) => none
      | (_, .refused _) => none) = some (⟨2, 0⟩, 0, 0x200) ∧
    (match (Cadence.start 0).iterate 17 (start.withFetchWord 16 0x1200) with
      | (c, .next t) => some (c, t.pollCount, t.pc)
      | (_, .fault _) => none
      | (_, .refused _) => none) = some (⟨17, 17⟩, 1, 0x200) := ⟨rfl, rfl⟩

/-- PG6 under the timed reference: the fault at 2 ends the loop, so no frame tick follows. -/
theorem test_timed_reference_exits :
    (match timedReference 0 [2, 17, 34] (start.withFetchWord 16 0x8008) with
      | (c, .next t) => some (c, t.pollCount, t.status)
      | (_, .fault _) => none
      | (_, .refused _) => none) =
      some (⟨2, 0⟩, 0, .faulted ⟨.unsupportedInstruction 0x8008, 0x200⟩) := rfl

/-! ### Witnesses: a state and operands that meet the hypotheses of each statement -/

theorem witness_DecodeEncodeRoundTrip : (Instr.drw 15 0 15).wellFormed = true := by decide

theorem witness_EncodeOfDecodedIsTheWord :
    decode 0x9AB7#16 = .ok (.sneVxVy 10 11) ∧ decode 0xF265#16 = .ok (.ldVxMi 2) := by decide

theorem witness_DecoderAgreesWithOpcodeTable :
    decode 0xFF65#16 = .ok (.ldVxMi 15) ∧
    ∃ r ∈ opcodeTable, 0xFF65#16 &&& r.mask = r.value := by decide

theorem witness_BootPlacesTheImage :
    (List.replicate 3583 (0xFF : Byte)).length ≤ Config.params.size - 0x200 ∧
    Config.params.size - 0x200 < (List.replicate 3584 (0xFF : Byte)).length := by
  constructor <;> rw [List.length_replicate] <;> decide

/-- The addresses on either side of the font's end, and the end of the parameters' clause. -/
theorem witness_ResetState :
    State.reset = State.resetWith Config.params ∧ 79 < 80 ∧ 80 ≤ 80 := ⟨rfl, by decide, by decide⟩

theorem witness_MemoryFormIsCanonical :
    Memory.wf Config.params [(0, 0xF1), (0xFFE, 7)] = true := by decide

theorem witness_JumpSetsPc :
    ({ start with pc := 0xFFE } : State).pc.toNat = (0xFFE#12).toNat ∧
    start.params.size ≤ (0xFFE#12).toNat + 1 := by decide

theorem witness_JumpOffsetByV0 :
    start.params.size - 1 ≤ (0xFFD#12).toNat + ((regs [(0, 1)] start).reg 0).toNat := by decide

theorem witness_SkipsOnRegisters :
    (0x5121#16).toNat / 4096 = 5 ∧ (0x9AB7#16).toNat / 4096 = 9 := by decide

theorem witness_CallPushesReturnAddress :
    start.memWf = true ∧ ({ start with sp := 4092 } : State).sp.toNat + 2 ≤ start.params.size ∧
    start.params.size < ({ start with sp := 4094 } : State).sp.toNat + 2 ∧
    ({ start4096 with sp := 4094 } : State).sp.toNat + 2 ≤ start4096.params.size := by decide

theorem witness_ReturnPopsAddress :
    2 ≤ ({ start with sp := 2 } : State).sp.toNat ∧
    ({ start with sp := 4094 } : State).sp.toNat ≤ start.params.size ∧
    ({ start with sp := 0 } : State).sp.toNat < 2 := by decide

theorem witness_NestedCallsReturn :
    start.memWf = true ∧
    ({ start with sp := 4090 } : State).sp.toNat + 2 * [0x300#12, 0x400#12].length ≤ start.params.size ∧
    [0x300#12, 0x400#12] ≠ [] := by decide

theorem witness_SettingMattersForVfOnly : (0 : RegIdx) ≠ VF ∧ (14 : RegIdx) ≠ VF := by decide

theorem witness_DecimalDigitsStored :
    start.memWf = true ∧ ({ start with i := 0xFFC } : State).i.toNat + 2 < start.params.size ∧
    start.params.size ≤ ({ start with i := 0xFFD } : State).i.toNat + 2 := by decide

theorem witness_RegistersStored :
    start.memWf = true ∧
    ({ start with i := 0xFEF } : State).i.toNat + (15 : RegIdx).val < start.params.size ∧
    start.params.size ≤ ({ start with i := 0xFF0 } : State).i.toNat + (15 : RegIdx).val := by decide

theorem witness_RegistersLoaded :
    ({ start with i := 0xFFE } : State).i.toNat + (0 : RegIdx).val < start.params.size ∧
    start.params.size ≤ ({ start with i := 0xFFE } : State).i.toNat + (1 : RegIdx).val := by decide

/-- A dump of two registers, and a load into others. -/
theorem witness_DumpThenLoadRestores :
    ∃ s t u w : State, s.memWf = true ∧ s.i.toNat + (1 : RegIdx).val < s.params.size ∧
      exec (.ldMiVx 1) s = .next t ∧ u.mem = t.mem ∧ u.params = t.params ∧ u.i = t.i ∧
      exec (.ldVxMi 1) u = .next w ∧ w.reg 1 = 8 :=
  ⟨{ regs [(0, 7), (1, 8)] start with i := 0x300 }, _,
    { start with i := 0x300, mem := [(0x300, 7), (0x301, 8)] }, _,
    by decide, by decide, rfl, rfl, rfl, rfl, rfl, by decide⟩

/-- An address that does not exist, and an access of the list. -/
theorem witness_LoadsIntoIndex :
    start.params.size ≤ (0xFFF#12).toNat ∧
    Instr.drw 0 1 1 ∈ [Instr.ldBVx 0, .ldMiVx 0, .ldVxMi 0, .drw 0 1 1] := by decide

theorem witness_StoredWordIsFetched :
    ∃ s t : State, s.memWf = true ∧ s.i.toNat + (1 : RegIdx).val < s.params.size ∧
      1 ≤ (1 : RegIdx).val ∧ s.i = s.pc + 2 ∧ exec (.ldMiVx 1) s = .next t :=
  ⟨{ start with i := 0x202 }, _, by decide, by decide, by decide, by decide, rfl⟩

theorem witness_ClearGridClearsEveryPixel : quiet.quit = false := by decide

/-- Two rows drawn of five, the last of them the last byte of memory (DR4), and no rows at all. -/
theorem witness_DrawIsPixelwiseXor :
    let s : State := { regs [(1, 30)] start with i := 0xFFD }
    min 0 (32 - (s.reg 1).toNat % 32) = 0 ∧
    s.i.toNat + min 5 (32 - (s.reg 1).toNat % 32) ≤ s.params.size := by decide

/-- Two rows of which the second does not exist (DR5). -/
theorem witness_DrawFaultsPastMemory :
    let s : State := { start with i := 0xFFE }
    0 < min 2 (32 - (s.reg 1).toNat % 32) ∧
    s.params.size < s.i.toNat + min 2 (32 - (s.reg 1).toNat % 32) := by decide

/-- The first glyph row drawn twice at the origin. -/
theorem witness_DrawTwiceRestores :
    ∃ t u : State, exec (.drw 0 1 1) start = .next t ∧ t.status = .running ∧
      (t.reg 0).toNat % 64 = (start.reg 0).toNat % 64 ∧
      (t.reg 1).toNat % 32 = (start.reg 1).toNat % 32 ∧
      exec (.drw 0 1 1) t = .next u ∧ t.reg VF = 0 :=
  ⟨_, _, rfl, rfl, by decide, by decide, rfl, by decide⟩

/-- The same glyph row drawn twice over a grid that holds it: the hypotheses of
`SecondDrawAlwaysCollides` where its conclusion fails. -/
theorem witness_SecondDrawAlwaysCollides :
    ∃ s t u : State, s.status = .running ∧ exec (.drw 0 1 1) s = .next t ∧ t.status = .running ∧
      (t.reg 0).toNat % 64 = (s.reg 0).toNat % 64 ∧ (t.reg 1).toNat % 32 = (s.reg 1).toNat % 32 ∧
      exec (.drw 0 1 1) t = .next u :=
  ⟨{ start with grid := State.reset.grid.set 0 0xF000000000000000 }, _, _,
    rfl, rfl, rfl, by decide, by decide, rfl⟩

theorem witness_WaitForKey :
    ({ start with keyActive := true } : State).keyActive = true ∧ start.keyActive = false := by decide

/-- A running machine whose next event is a frame tick. -/
def frameNext : State := { start with arbiter := ⟨.frame, 0, 1⟩ }

theorem witness_FrameTickOutcome :
    frameNext.status = .running ∧ frameNext.arbiter.turn = .frame := by decide

/-- A machine at a jump to itself. -/
def spinning : State := start.withFetchWord 16 0x1200

theorem witness_StepRunsDecodedInstruction :
    spinning.status = .running ∧ spinning.arbiter.turn = .instr ∧
    spinning.pc.toNat + 1 < start.params.size ∧
    decodeBytes [spinning.byteAt spinning.pc.toNat, spinning.byteAt (spinning.pc.toNat + 1)] =
      .ok (.jpNnn 0x200#12, []) ∧
    ∃ t, exec (.jpNnn 0x200#12) spinning = .next t ∧ t.status = .running := by
  refine ⟨by decide, by decide, by decide, by decide, _, rfl, by decide⟩

/-- The second clause: an instruction that faults. -/
theorem witness_StepRunsDecodedInstruction_fault :
    decodeBytes [0x00, 0xEE] = .ok (.ret, []) ∧
    ∃ t, exec .ret (start.withFetchWord 16 0x00EE) = .next t ∧ t.status ≠ .running := by
  refine ⟨by decide, _, rfl, by decide⟩

theorem witness_UnsupportedWordFaults :
    start.status = .running ∧ start.arbiter.turn = .instr ∧ start.pc.toNat + 1 < start.params.size ∧
    decode (start.wordAt start.pc.toNat) = .error .family0 := by decide

theorem witness_FetchFaultsPastMemory :
    start.params.size ≤ ({ start with pc := 0xFFE } : State).pc.toNat + 1 ∧
    ¬ start.params.size ≤ ({ start with pc := 0xFFE } : State).pc.toNat ∧
    start.params.size ≤ ({ start with pc := 0xFFF } : State).pc.toNat := by decide

/-- An empty memory's first word is unsupported. -/
theorem witness_FaultsArePrecise :
    ∃ t, start.status = .running ∧ step start = .next t ∧
      t.status = .faulted ⟨.unsupportedInstruction 0, 0x200⟩ :=
  ⟨_, rfl, rfl, rfl⟩

theorem witness_InstructionFaultKinds :
    ∃ t, start.status = .running ∧ exec .ret start = .next t ∧
      t.status = .faulted ⟨.stackUnderflow 0x00EE, 0x200⟩ :=
  ⟨_, rfl, rfl, rfl⟩

theorem witness_StoppedMachineTakesNoStep :
    ({ start with status := .faulted ⟨.stackUnderflow 0x00EE, 0x200⟩ } : State).status =
      .faulted ⟨.stackUnderflow 0x00EE, 0x200⟩ ∧
    ({ start with status := .terminated } : State).status = .terminated := by decide

theorem witness_RunningMachineAlwaysSteps : start.status = .running := by decide

theorem witness_ArbiterGivesBothTurns :
    ∃ t, core.run (spinning.arbiter.left + 1) spinning = .next t ∧ t.status = .running :=
  ⟨_, rfl, rfl⟩

/-- Neither tick at 1, a frame tick alone at 17 after an instruction tick at 16, an instruction tick alone
at 2, both at 17. -/
theorem witness_TimedReferenceIteration :
    spinning.status = .running ∧
    (1 - 0 < spinning.params.instrPeriodMs ∧ 1 - 0 < spinning.params.framePeriodMs) ∧
    (17 - 16 < spinning.params.instrPeriodMs ∧ spinning.params.framePeriodMs ≤ 17 - 0) ∧
    (∃ t, instrTick spinning = .next t ∧ t.status = .running) ∧
    (spinning.params.instrPeriodMs ≤ 2 - 0 ∧ 2 - 0 < spinning.params.framePeriodMs) ∧
    spinning.params.instrPeriodMs ≤ 17 - 0 := by
  refine ⟨by decide, by decide, by decide, ⟨_, rfl, by decide⟩, by decide, by decide⟩

/-- An instruction tick that stops the machine, and a machine that has stopped. -/
theorem witness_TimedReferenceIteration_stopped :
    ∃ t, instrTick start = .next t ∧ t.status ≠ .running := ⟨_, rfl, by decide⟩

/-- A loop that ends running and one that ends stopped. -/
theorem witness_TimedReferenceLoop :
    spinning.status = .running ∧ start.status = .running ∧
    (∃ c' t, (Cadence.start 0).loop [2] spinning = (c', .next t) ∧ t.status = .running) ∧
    (∃ c' t, (Cadence.start 0).loop [2] start = (c', .next t) ∧ t.status ≠ .running) := by
  refine ⟨by decide, by decide, ⟨_, _, rfl, by decide⟩, ⟨_, _, rfl, by decide⟩⟩

theorem witness_StepKeepsParameters : ∃ t, step spinning = .next t := ⟨_, rfl⟩

theorem witness_InstructionsChangeOnlyTheirFootprint :
    ∃ t, exec (.call 0x300#12) start = .next t ∧ t.status = start.status :=
  ⟨_, rfl, rfl⟩

theorem witness_StepKeepsInvariant :
    spinning.inv = true ∧ ∃ t, step spinning = .next t :=
  ⟨by decide, _, rfl⟩

theorem witness_KeyLatchReadByKeyInstructionsOnly : (Instr.ldVxDt 0).readsKey = false := by decide

theorem witness_JumpToSelfIsTheEnd :
    spinning.atEnd 0x200#12 ∧ spinning.arbiter.turn = .instr ∧ quiet.quit = false :=
  ⟨⟨rfl, rfl, rfl⟩, rfl, rfl⟩

end Sys2Proof.Tests
end

namespace Sys2Proof.Machine

/-! ### The register file through the operations (spec/10_state.md R20) -/

/-- A register read after a write to any register. -/
theorem State.reg_setReg (s : State) (x r : RegIdx) (b : Byte) :
    (s.setReg x b).reg r = if r = x then b else s.reg r := by
  split
  case isTrue hr => rw [hr, State.reg_setReg_self]
  case isFalse hr => exact State.reg_setReg_of_ne s b hr

@[simp] theorem State.reg_store (s : State) (a : Nat) (vs : List Byte) (r : RegIdx) :
    (s.store a vs).reg r = s.reg r := rfl

theorem State.reg_resetWith (p : Params) (r : RegIdx) : (State.resetWith p).reg r = 0 :=
  Vector.getElem_replicate r.isLt

/-- The bounds check always answers a next state. -/
theorem exists_inMemory_eq_next (base len : Nat) (w : Word) (s t : State) :
    ∃ u, inMemory base len w s t = .next u := by
  unfold inMemory
  split
  · exact ⟨_, rfl⟩
  · exact ⟨_, rfl⟩

/-! ### The instructions through which R20 is stated -/

theorem exec_ldVxNn (x : RegIdx) (b : Byte) (s : State) :
    exec (.ldVxNn x b) s = .next (s.advance.setReg x b) := rfl

theorem exec_ldVxVy (x y : RegIdx) (s : State) :
    exec (.ldVxVy x y) s = .next (s.advance.setReg x (s.reg y)) := rfl

theorem exec_ldMiVx (x : RegIdx) (s : State) :
    exec (.ldMiVx x) s = inMemory s.indexAddr (x.val + 1) (encode (.ldMiVx x)) s
      (s.advance.store s.indexAddr ((regRange x).map s.reg)) := rfl

/-- FX55 keeps the register file whether it stores or faults (R109, R136). -/
theorem reg_of_exec_ldMiVx {x : RegIdx} {s t : State} (h : exec (.ldMiVx x) s = .next t)
    (r : RegIdx) : t.reg r = s.reg r := by
  rw [exec_ldMiVx] at h
  obtain ⟨-, rfl⟩ | ⟨-, -, rfl⟩ := inMemory_cases h
  case inl => rw [State.reg_store, State.reg_advance]
  case inr => exact State.reg_takeFault s _ r

/-- Settles O8: a register read after a write is the byte written or the old one, no store and no fault
touches the register file, and reset fills it with 0. -/
theorem registersAreIndependent : Obligations.RegistersAreIndependent := by
  refine ⟨fun x b s => ⟨_, exec_ldVxNn x b s, fun r => ?_, ?_⟩,
    fun x y s => ⟨_, exec_ldVxVy x y s, ?_⟩, fun x s => ?_, State.reg_resetWith⟩
  · rw [State.reg_setReg, State.reg_advance]
  · rw [State.setReg_mem, State.advance_mem]
  · rw [State.reg_setReg_self]
  · obtain ⟨t, ht⟩ := exists_inMemory_eq_next s.indexAddr (x.val + 1) (encode (.ldMiVx x)) s
      (s.advance.store s.indexAddr ((regRange x).map s.reg))
    exact ⟨t, ht, reg_of_exec_ldMiVx ht⟩

end Sys2Proof.Machine

namespace Sys2Proof

/-! ### The fields of a word as arithmetic on the word (spec/30_encoding.md R62) -/

/-- Extraction at `lo` divides by `2 ^ lo`, and its width is the modulus. -/
theorem toNat_extractLsb'_eq_div_mod {v : Nat} (w : BitVec v) (lo len : Nat) :
    (w.extractLsb' lo len).toNat = w.toNat / 2 ^ lo % 2 ^ len := by
  rw [BitVec.extractLsb'_toNat, Nat.shiftRight_eq_div_pow]

/-- Extraction from bit 0 keeps the remainder alone. -/
theorem toNat_extractLsb'_zero_eq_mod {v : Nat} (w : BitVec v) (len : Nat) :
    (w.extractLsb' 0 len).toNat = w.toNat % 2 ^ len := by
  rw [toNat_extractLsb'_eq_div_mod, Nat.pow_zero, Nat.div_one]

/-- The family is the top field, so no higher bits are there to be cut off. -/
theorem toNat_fieldFam (w : Word) : (fieldFam w).toNat = w.toNat / 4096 := by
  have hw : w.toNat / 4096 < 16 := Nat.div_lt_of_lt_mul w.isLt
  exact (toNat_extractLsb'_eq_div_mod w 12 4).trans (Nat.mod_eq_of_lt hw)

theorem val_fieldX (w : Word) : (fieldX w).val = w.toNat / 256 % 16 :=
  toNat_extractLsb'_eq_div_mod w 8 4

theorem val_fieldY (w : Word) : (fieldY w).val = w.toNat / 16 % 16 :=
  toNat_extractLsb'_eq_div_mod w 4 4

theorem toNat_fieldN (w : Word) : (fieldN w).toNat = w.toNat % 16 :=
  toNat_extractLsb'_zero_eq_mod w 4

theorem toNat_fieldNn (w : Word) : (fieldNn w).toNat = w.toNat % 256 :=
  toNat_extractLsb'_zero_eq_mod w 8

theorem toNat_fieldNnn (w : Word) : (fieldNnn w).toNat = w.toNat % 4096 :=
  toNat_extractLsb'_zero_eq_mod w 12

/-- Settles O5: each field is one extraction, and an extraction is a division and a remainder. -/
theorem fieldsAreTheBitsNamed : Obligations.FieldsAreTheBitsNamed := fun w =>
  ⟨toNat_fieldFam w, val_fieldX w, val_fieldY w, toNat_fieldN w, toNat_fieldNn w, toNat_fieldNnn w⟩

end Sys2Proof

namespace Sys2Proof.Machine

/-! ### Where a jump or a skip leaves the machine (spec/40_control.md) -/

/-- `zext_16` keeps the value of an address (R63). -/
@[simp] theorem toNat_addrOperand (nnn : BitVec 12) : (addrOperand nnn).toNat = nnn.toNat :=
  BitVec.toNat_setWidth_of_le (by decide)

/-- Widening keeps the value of a register (R63). -/
@[simp] theorem State.toNat_regWide (s : State) (x : RegIdx) :
    (s.regWide x).toNat = (s.reg x).toNat :=
  BitVec.toNat_setWidth_of_le (by decide)

/-- The largest address plus the largest register stays below 0x10000, so the 16-bit sum of BNNN does
not wrap (R87). -/
theorem State.toNat_addrOperand_add_regWide (s : State) (nnn : BitVec 12) (x : RegIdx) :
    (addrOperand nnn + s.regWide x).toNat = nnn.toNat + (s.reg x).toNat := by
  have haddr : nnn.toNat < 4096 := nnn.isLt
  have hreg : (s.reg x).toNat < 256 := (s.reg x).isLt
  rw [BitVec.toNat_add, toNat_addrOperand, State.toNat_regWide]
  exact Nat.mod_eq_of_lt (by omega)

/-- A jump to where `PC` already is. -/
theorem State.jump_of_toNat_pc_eq {s : State} {target : Word} (h : s.pc.toNat = target.toNat) :
    s.jump target = s := by
  have hpc : s.pc = target := BitVec.eq_of_toNat_eq h
  rw [← hpc]
  rfl

/-- A target whose word leaves memory has no fetch (R132). -/
theorem State.exists_fetch_jump_eq_error {s : State} {target : Word}
    (h : s.params.size ≤ target.toNat + 1) : ∃ a, (s.jump target).fetch = .error a :=
  ⟨_, State.fetch_of_outside h⟩

/-- A skip after the cycle's advance passes over 2 more bytes (R83 to R86). -/
theorem State.skipIf_advance (s : State) (c : Bool) :
    s.advance.skipIf c = { s with pc := if c then s.pc + 4 else s.pc + 2 } := by
  cases c with
  | false => rfl
  | true =>
    have hpc : s.pc + 2 + 2 = s.pc + 4 := BitVec.add_assoc s.pc 2 2
    exact congrArg (fun pc => { s with pc := pc }) hpc

/-- The skip of SE, whatever the two bytes are read from (R83, R85). -/
theorem State.skipIf_beq_advance (s : State) (a b : Byte) :
    s.advance.skipIf (a == b) = { s with pc := if a = b then s.pc + 4 else s.pc + 2 } := by
  simp only [State.skipIf_advance, beq_iff_eq]

/-- The skip of SNE, whatever the two bytes are read from (R84, R86). -/
theorem State.skipIf_bne_advance (s : State) (a b : Byte) :
    s.advance.skipIf (a != b) = { s with pc := if a = b then s.pc + 2 else s.pc + 4 } := by
  simp only [State.skipIf_advance, bne_iff_ne, ite_not]

/-! ### The jumps, and the skips against an immediate -/

/-- The cycle's advance is overwritten by the target (R72, R81). -/
theorem exec_jpNnn (nnn : BitVec 12) (s : State) :
    exec (.jpNnn nnn) s = .next (s.jump (addrOperand nnn)) := rfl

/-- The cycle's advance is overwritten by the target (R72, R87). -/
theorem exec_jpV0 (nnn : BitVec 12) (s : State) :
    exec (.jpV0 nnn) s = .next (s.jump (addrOperand nnn + s.regWide 0)) := rfl

theorem exec_seVxNn (x : RegIdx) (nn : Byte) (s : State) :
    exec (.seVxNn x nn) s = .next (s.advance.skipIf (s.reg x == nn)) := rfl

theorem exec_sneVxNn (x : RegIdx) (nn : Byte) (s : State) :
    exec (.sneVxNn x nn) s = .next (s.advance.skipIf (s.reg x != nn)) := rfl

/-- Settles O12: 1NNN is a jump to the zero-extended address. -/
theorem jumpSetsPc : Obligations.JumpSetsPc := by
  intro nnn s
  have htarget : (addrOperand nnn).toNat = nnn.toNat := toNat_addrOperand nnn
  refine ⟨_, exec_jpNnn nnn s, htarget, rfl, fun hself => ?_, fun hout => ?_⟩
  · exact State.jump_of_toNat_pc_eq (hself.trans htarget.symm)
  · exact State.exists_fetch_jump_eq_error (by omega)

/-- Settles O13: BNNN is a jump to a sum that is too small to wrap. -/
theorem jumpOffsetByV0 : Obligations.JumpOffsetByV0 := by
  intro nnn s
  have htarget : (addrOperand nnn + s.regWide 0).toNat = nnn.toNat + (s.reg 0).toNat :=
    s.toNat_addrOperand_add_regWide nnn 0
  refine ⟨_, exec_jpV0 nnn s, htarget, rfl, fun hout => ?_⟩
  exact State.exists_fetch_jump_eq_error (by omega)

/-- Settles O14: each skip is the cycle's advance and, where its comparison holds, a second one. -/
theorem skipsOnImmediate : Obligations.SkipsOnImmediate := by
  intro x nn s
  constructor
  · rw [exec_seVxNn, State.skipIf_beq_advance]
  · rw [exec_sneVxNn, State.skipIf_bne_advance]

end Sys2Proof.Machine

namespace Sys2Proof.Machine

/-! ### One register written on the cycle's advance (spec/41_register_alu.md) -/

/-- The two fields such an instruction changes (R72, R20). -/
theorem State.setReg_advance (s : State) (x : RegIdx) (b : Byte) :
    s.advance.setReg x b = { s with pc := s.pc + 2, v := s.v.set x.val b } := rfl

/-- The other registers are those before the instruction, `V[15]` among them. -/
theorem State.reg_setReg_advance_of_ne (s : State) {x r : RegIdx} (b : Byte) (h : r ≠ x) :
    (s.advance.setReg x b).reg r = s.reg r := by
  rw [State.reg_setReg_of_ne s.advance b h, State.reg_advance]

theorem exec_addVxNn (x : RegIdx) (nn : Byte) (s : State) :
    exec (.addVxNn x nn) s = .next (s.advance.setReg x (s.reg x + nn)) := rfl

theorem exec_orVxVy (x y : RegIdx) (s : State) :
    exec (.orVxVy x y) s = .next (s.advance.setReg x (s.reg x ||| s.reg y)) := rfl

theorem exec_andVxVy (x y : RegIdx) (s : State) :
    exec (.andVxVy x y) s = .next (s.advance.setReg x (s.reg x &&& s.reg y)) := rfl

theorem exec_xorVxVy (x y : RegIdx) (s : State) :
    exec (.xorVxVy x y) s = .next (s.advance.setReg x (s.reg x ^^^ s.reg y)) := rfl

/-- Settles O19: both loads are one register write on the cycle's advance. -/
theorem loadsIntoRegister : Obligations.LoadsIntoRegister := by
  intro x y nn s
  constructor
  · rw [exec_ldVxNn, State.setReg_advance]
  · rw [exec_ldVxVy, State.setReg_advance]

/-- Settles O20: the byte sum is the sum modulo 256, and it is the only register written. -/
theorem addImmediateWraps : Obligations.AddImmediateWraps := by
  intro x nn s
  refine ⟨_, exec_addVxNn x nn s, ?_, fun r hr => s.reg_setReg_advance_of_ne _ hr,
    s.setReg_advance x _⟩
  rw [State.reg_setReg_self, BitVec.toNat_add]

/-- Settles O21: the word operations act on each bit alone, and each writes `V[x]` alone. -/
theorem logicBitByBit : Obligations.LogicBitByBit := by
  intro x y s
  refine ⟨_, _, _, exec_orVxVy x y s, exec_andVxVy x y s, exec_xorVxVy x y s,
    fun k => ⟨?_, ?_, ?_⟩, fun r hr => ?_,
    s.setReg_advance x _, s.setReg_advance x _, s.setReg_advance x _⟩
  · rw [State.reg_setReg_self, BitVec.getLsbD_or]
  · rw [State.reg_setReg_self, BitVec.getLsbD_and]
  · rw [State.reg_setReg_self, BitVec.getLsbD_xor]
  · have keeps (b : Byte) : (s.advance.setReg x b).reg r = s.reg r :=
      s.reg_setReg_advance_of_ne b hr
    exact ⟨keeps _, keeps _, keeps _⟩

end Sys2Proof.Machine

namespace Sys2Proof.Machine

/-! ### Loading `I`, and accesses through an `I` that does not exist (spec/42_index_memory.md) -/

theorem exec_ldINnn (nnn : BitVec 12) (s : State) :
    exec (.ldINnn nnn) s = .next { s.advance with i := addrOperand nnn } := rfl

theorem exec_ldFVx (x : RegIdx) (s : State) :
    exec (.ldFVx x) s = .next { s.advance with i := s.glyphAddr x } := rfl

theorem exec_ldBVx (x : RegIdx) (s : State) :
    exec (.ldBVx x) s = inMemory s.indexAddr 3 (encode (.ldBVx x)) s
      (s.advance.store s.indexAddr (decimalDigits (s.reg x))) := rfl

theorem exec_ldVxMi (x : RegIdx) (s : State) :
    exec (.ldVxMi x) s = inMemory s.indexAddr (x.val + 1) (encode (.ldVxMi x)) s
      (s.advance.loadRegs s.indexAddr (regRange x)) := rfl

theorem exec_drw (x y : RegIdx) (n : Nat) (s : State) :
    exec (.drw x y n) s = inMemory s.indexAddr (s.rowsDrawn y n) (encode (.drw x y n)) s
      ({ s.advance with grid := (s.drawn x y n).1 }.setReg VF (flagOf (s.drawn x y n).2)) := rfl

/-- The glyph of a low digit: at most `15 * 5`, so the 16-bit product does not wrap (R107). -/
theorem State.toNat_glyphAddr (s : State) (x : RegIdx) :
    (s.glyphAddr x).toNat = (s.reg x).toNat % 16 * 5 := by
  have hdigit : (s.reg x &&& 0x0F#8).toNat = (s.reg x).toNat % 16 :=
    (BitVec.toNat_and _ _).trans (Nat.and_two_pow_sub_one_eq_mod _ 4)
  have hwide : ((s.reg x &&& 0x0F#8).setWidth 16).toNat = (s.reg x).toNat % 16 :=
    (BitVec.toNat_setWidth_of_le (by decide)).trans hdigit
  have hfive : (BitVec.ofNat 16 Config.glyphBytes).toNat = 5 := rfl
  rw [State.glyphAddr, BitVec.toNat_mul, hwide, hfive]
  exact Nat.mod_eq_of_lt (by omega)

/-- The origin's row wraps into the grid, so a sprite with rows has one to draw (R114). -/
theorem State.rowsDrawn_pos (s : State) (y : RegIdx) {n : Nat} (hn : 0 < n) :
    0 < s.rowsDrawn y n := by
  have hrow : s.originY y < Config.gridHeight := Nat.mod_lt _ (by decide)
  exact Nat.lt_min.2 ⟨hn, Nat.sub_pos_of_lt hrow⟩

/-- Bytes from an address that does not exist: the bounds check takes a fault (R48, R49). -/
theorem inMemory_faulted_of_size_le {base len : Nat} (w : Word) {s : State} (t : State)
    (hlen : 0 < len) (hbase : s.params.size ≤ base) :
    ∃ u record, inMemory base len w s t = .next u ∧ u.status = .faulted record :=
  ⟨_, _, inMemory_of_outside hlen (by omega), State.takeFault_status s _⟩

/-- Each instruction that accesses a byte through `I` faults when `I` does not exist (R105). -/
theorem exec_faulted_of_size_le_indexAddr {s : State} (h : s.params.size ≤ s.indexAddr)
    (x y : RegIdx) {n : Nat} (hn : 0 < n) {i : Instr}
    (hi : i ∈ [.ldBVx x, .ldMiVx x, .ldVxMi x, .drw x y n]) :
    ∃ u record, exec i s = .next u ∧ u.status = .faulted record := by
  simp only [List.mem_cons, List.not_mem_nil, or_false] at hi
  obtain rfl | rfl | rfl | rfl := hi
  · rw [exec_ldBVx]
    exact inMemory_faulted_of_size_le _ _ (Nat.succ_pos 2) h
  · rw [exec_ldMiVx]
    exact inMemory_faulted_of_size_le _ _ (Nat.succ_pos x.val) h
  · rw [exec_ldVxMi]
    exact inMemory_faulted_of_size_le _ _ (Nat.succ_pos x.val) h
  · rw [exec_drw]
    exact inMemory_faulted_of_size_le _ _ (s.rowsDrawn_pos y hn) h

/-- Settles O27: both loads write `I` on the cycle's advance without a bounds check, and every access
through the address loaded makes one. -/
theorem loadsIntoIndex : Obligations.LoadsIntoIndex := by
  constructor
  · intro nnn s
    have haddr : (addrOperand nnn).toNat = nnn.toNat := toNat_addrOperand nnn
    refine ⟨_, exec_ldINnn nnn s, haddr, rfl, fun hout x y n i hn hi => ?_⟩
    refine exec_faulted_of_size_le_indexAddr ?_ x y hn hi
    exact hout.trans haddr.ge
  · intro x s
    exact ⟨_, exec_ldFVx x s, s.toNat_glyphAddr x, rfl⟩

end Sys2Proof.Machine

namespace Sys2Proof.Machine

/-! ### Waiting for a key (spec/44_timer_input.md R121) -/

theorem exec_ldVxK_of_keyActive (x : RegIdx) {s : State} (h : s.keyActive = true) :
    exec (.ldVxK x) s = .next (s.advance.setReg x (s.key.setWidth 8)) :=
  if_pos h

/-- Decrementing `PC` by 2 undoes the advance whole, at 0xFFFE too, since both wrap. -/
theorem State.jump_advance_sub_two (s : State) : s.advance.jump (s.advance.pc - 2) = s := by
  have hpc : s.advance.pc - 2 = s.pc := BitVec.add_sub_cancel s.pc 2
  rw [hpc]
  rfl

theorem exec_ldVxK_of_not_keyActive (x : RegIdx) {s : State} (h : s.keyActive = false) :
    exec (.ldVxK x) s = .next s := by
  have hexec : exec (.ldVxK x) s = .next (s.advance.jump (s.advance.pc - 2)) :=
    if_neg (ne_true_of_eq_false h)
  rw [hexec, State.jump_advance_sub_two]

/-- Settles O41: an active key is written on the cycle's advance, widened from 4 bits to 8 without loss,
and with no key the advance is taken back. -/
theorem waitForKey : Obligations.WaitForKey := by
  intro x s
  refine ⟨fun h => ?_, exec_ldVxK_of_not_keyActive x⟩
  refine ⟨_, exec_ldVxK_of_keyActive x h, ?_, fun r hr => ?_, State.setReg_advance s x _⟩
  · rw [State.reg_setReg_self]
    exact BitVec.toNat_setWidth_of_le (by decide)
  · exact State.reg_setReg_advance_of_ne s _ hr

end Sys2Proof.Machine

namespace Sys2Proof.Machine

/-! ### The arms of `exec` that no lemma above states -/

theorem exec_cls (s : State) : exec .cls s = .next { s.advance with grid := Grid.clear } := rfl

theorem exec_ret_of_underflow {s : State} (h : s.sp.toNat < 2) :
    exec .ret s = .next (s.takeFault (.stackUnderflow (encode .ret))) := if_pos h

theorem exec_ret_of_le {s : State} (h : 2 ≤ s.sp.toNat) :
    exec .ret s = .next { s with pc := s.wordAt s.popAddr, sp := s.sp - 2 } :=
  if_neg (Nat.not_lt.2 h)

theorem exec_call_of_overflow {s : State} (nnn : BitVec 12) (h : s.params.size < s.sp.toNat + 2) :
    exec (.call nnn) s = .next (s.takeFault (.stackOverflow s.sp (encode (.call nnn)))) := if_pos h

theorem exec_call_of_le {s : State} (nnn : BitVec 12) (h : s.sp.toNat + 2 ≤ s.params.size) :
    exec (.call nnn) s = .next { s.storeWord s.pushAddr s.advance.pc with
      sp := s.sp + 2, pc := addrOperand nnn } := if_neg (Nat.not_lt.2 h)

theorem exec_seVxVy (x y : RegIdx) (s : State) :
    exec (.seVxVy x y) s = .next (s.advance.skipIf (s.reg x == s.reg y)) := rfl

theorem exec_sneVxVy (x y : RegIdx) (s : State) :
    exec (.sneVxVy x y) s = .next (s.advance.skipIf (s.reg x != s.reg y)) := rfl

theorem exec_addVxVy (x y : RegIdx) (s : State) :
    exec (.addVxVy x y) s = .next (s.advance.alu carryFlag (fun a b => a + b) x y) := rfl

theorem exec_subVxVy (x y : RegIdx) (s : State) :
    exec (.subVxVy x y) s = .next (s.advance.alu greaterFlag (fun a b => a - b) x y) := rfl

theorem exec_shrVxVy (x y : RegIdx) (s : State) :
    exec (.shrVxVy x y) s =
      .next (s.advance.alu (fun a _ => lowBitFlag a) (fun a _ => a >>> 1) x y) := rfl

theorem exec_subnVxVy (x y : RegIdx) (s : State) :
    exec (.subnVxVy x y) s =
      .next (s.advance.alu (fun a b => greaterFlag b a) (fun a b => b - a) x y) := rfl

theorem exec_shlVxVy (x y : RegIdx) (s : State) :
    exec (.shlVxVy x y) s =
      .next (s.advance.alu (fun a _ => topBitFlag a) (fun a _ => a <<< 1) x y) := rfl

theorem exec_rnd (x : RegIdx) (nn : Byte) (s : State) :
    exec (.rnd x nn) s = .next (s.advance.rndWith (Config.rand8 s.randCount) x nn) := rfl

theorem exec_skp (x : RegIdx) (s : State) :
    exec (.skp x) s = .next (s.advance.skipIf (s.keyIs x)) := rfl

theorem exec_sknp (x : RegIdx) (s : State) :
    exec (.sknp x) s = .next (s.advance.skipIf (s.keyIsNot x)) := rfl

theorem exec_ldVxDt (x : RegIdx) (s : State) :
    exec (.ldVxDt x) s = .next (s.advance.setReg x s.dt) := rfl

theorem exec_ldDtVx (x : RegIdx) (s : State) :
    exec (.ldDtVx x) s = .next { s.advance with dt := s.reg x } := rfl

theorem exec_ldStVx (x : RegIdx) (s : State) :
    exec (.ldStVx x) s = .next { s.advance with st := s.reg x } := rfl

theorem exec_addIVx (x : RegIdx) (s : State) :
    exec (.addIVx x) s = .next
      ({ s.advance with i := s.i + s.regWide x }.setFlagIf (indexOverflows (s.i + s.regWide x))) :=
  rfl

/-- Bits 15:12 hold a one exactly from 0x1000 up (R106). -/
theorem indexOverflows_eq (w : Word) : indexOverflows w = decide (0x1000 ≤ w.toNat) := by
  have htop : (w.extractLsb' 12 4).toNat = w.toNat / 4096 := toNat_fieldFam w
  have hzero : (0 : BitVec 4).toNat = 0 := rfl
  rw [indexOverflows, Bool.eq_iff_iff, bne_iff_ne, decide_eq_true_eq, ne_eq, ← BitVec.toNat_inj,
    htop, hzero]
  omega

theorem State.toNat_index_add (s : State) (x : RegIdx) :
    (s.i + s.regWide x).toNat = (s.i.toNat + (s.reg x).toNat) % 0x10000 := by
  rw [BitVec.toNat_add, State.toNat_regWide]

/-! ### What each operation leaves unchanged (spec/10_state.md R21, spec/20_memory.md R47) -/

section Frame

variable {f : Footprint} {s t u : State}

theorem Footprint.frame_trans (h : f.frame s t) (h' : f.frame t u) : f.frame s u := by
  obtain ⟨reg, i, sp, dt, st, grid, rand, byte, act, key, status, arb, out, poll, params⟩ := h
  obtain ⟨reg', i', sp', dt', st', grid', rand', byte', act', key', status', arb', out', poll',
    params'⟩ := h'
  exact ⟨fun r hr => (reg' r hr).trans (reg r hr), fun e => (i' e).trans (i e),
    fun e => (sp' e).trans (sp e), fun e => (dt' e).trans (dt e), fun e => (st' e).trans (st e),
    fun e => (grid' e).trans (grid e), fun e => (rand' e).trans (rand e),
    fun a ha => (byte' a ha).trans (byte a ha), act'.trans act, key'.trans key,
    status'.trans status, arb'.trans arb, out'.trans out, poll'.trans poll, params'.trans params⟩

theorem Footprint.frame_refl (f : Footprint) (s : State) : f.frame s s := by
  simp [Footprint.frame]

/-- `PC` may always change. -/
theorem Footprint.frame_setPc (f : Footprint) (s : State) (w : Word) :
    f.frame s { s with pc := w } := by
  simp [Footprint.frame, State.reg, State.byteAt]

theorem Footprint.frame_advance (f : Footprint) (s : State) : f.frame s s.advance :=
  f.frame_setPc s _

theorem Footprint.frame_skipIf (f : Footprint) (s : State) (c : Bool) :
    f.frame s (s.skipIf c) := by
  cases c with
  | false => exact f.frame_refl s
  | true => exact f.frame_advance s

theorem Footprint.frame_setReg {x : RegIdx} (hx : x ∈ f.regs) (s : State) (b : Byte) :
    f.frame s (s.setReg x b) := by
  have other (r : RegIdx) (hr : r ∉ f.regs) : (s.setReg x b).reg r = s.reg r :=
    s.reg_setReg_of_ne b fun e => hr (e ▸ hx)
  simpa [Footprint.frame] using other

theorem Footprint.frame_alu {x : RegIdx} (hx : x ∈ f.regs) (hf : VF ∈ f.regs) (y : RegIdx)
    (flag result : Byte → Byte → Byte) (s : State) : f.frame s (s.alu flag result x y) :=
  Footprint.frame_trans (Footprint.frame_setReg hf s _) (Footprint.frame_setReg hx _ _)

theorem Footprint.frame_setFlagIf {c : Bool} (hf : c = true → VF ∈ f.regs) (s : State) :
    f.frame s (s.setFlagIf c) := by
  cases c with
  | false => exact f.frame_refl s
  | true => exact Footprint.frame_setReg (hf rfl) s 1

theorem Footprint.frame_loadRegs (base : Nat) {rs : List RegIdx} (hrs : ∀ r ∈ rs, r ∈ f.regs)
    (s : State) : f.frame s (s.loadRegs base rs) := by
  induction rs generalizing s with
  | nil => exact f.frame_refl s
  | cons r rs ih =>
    exact Footprint.frame_trans (Footprint.frame_setReg (hrs r (by simp)) s _)
      (ih (fun q hq => hrs q (by simp [hq])) _)

theorem Footprint.frame_setI (hi : f.i = true) (s : State) (w : Word) :
    f.frame s { s with i := w } := by
  simp [Footprint.frame, State.reg, State.byteAt, hi]

theorem Footprint.frame_setSp (hsp : f.sp = true) (s : State) (w : Word) :
    f.frame s { s with sp := w } := by
  simp [Footprint.frame, State.reg, State.byteAt, hsp]

theorem Footprint.frame_setDt (hdt : f.dt = true) (s : State) (b : Byte) :
    f.frame s { s with dt := b } := by
  simp [Footprint.frame, State.reg, State.byteAt, hdt]

theorem Footprint.frame_setSt (hst : f.st = true) (s : State) (b : Byte) :
    f.frame s { s with st := b } := by
  simp [Footprint.frame, State.reg, State.byteAt, hst]

theorem Footprint.frame_setGrid (hg : f.grid = true) (s : State) (g : Grid) :
    f.frame s { s with grid := g } := by
  simp [Footprint.frame, State.reg, State.byteAt, hg]

theorem Footprint.frame_rndWith {x : RegIdx} (hx : x ∈ f.regs) (hr : f.rand = true) (s : State)
    (draw nn : Byte) : f.frame s (s.rndWith draw x nn) := by
  refine Footprint.frame_trans (Footprint.frame_setReg hx s (draw &&& nn)) ?_
  simp [Footprint.frame, State.rndWith, State.reg, State.setReg, State.byteAt, hr]

theorem Footprint.frame_store {a : Nat} {vs : List Byte}
    (hst : ∀ k < vs.length, a + k ∈ f.stores) (s : State) : f.frame s (s.store a vs) := by
  have other (b : Nat) (hb : b ∉ f.stores) : (s.store a vs).byteAt b = s.byteAt b := by
    refine s.byteAt_store_outside vs ?_
    by_contra hin
    refine hb ?_
    have := hst (b - a) (by omega)
    rwa [Nat.add_sub_cancel' (by omega)] at this
  simpa [Footprint.frame] using other

theorem Footprint.frame_storeWord {a : Nat} (hlo : a ∈ f.stores) (hhi : a + 1 ∈ f.stores)
    (s : State) (w : Word) : f.frame s (s.storeWord a w) := by
  refine Footprint.frame_store (vs := [highByte w, lowByte w]) (fun k hk => ?_) s
  obtain rfl | rfl : k = 0 ∨ k = 1 := by simp at hk; omega
  · exact hlo
  · exact hhi

end Frame

/-! ### What an instruction can do: take its fault, or keep to its footprint -/

/-- `t` is the fault of `i` taken from `s` (R136), or differs from `s` within the footprint of `i`. -/
def Admits (i : Instr) (s t : State) : Prop :=
  (∃ cause, t = s.takeFault cause ∧ cause.code = i.faultCode) ∨ (i.footprint s).frame s t

/-- The bounds check adds one fault, of code 2, to what it guards. -/
theorem exists_inMemory_admits {i : Instr} {s t : State} (base len : Nat) (w : Word)
    (hcode : i.faultCode = 2) (h : (i.footprint s).frame s t) :
    ∃ u, inMemory base len w s t = .next u ∧ Admits i s u := by
  obtain ⟨u, hu⟩ := exists_inMemory_eq_next base len w s t
  refine ⟨u, hu, ?_⟩
  obtain ⟨-, rfl⟩ | ⟨-, -, rfl⟩ := inMemory_cases hu
  · exact .inr h
  · exact .inl ⟨_, rfl, hcode.symm⟩

/-- Every instruction answers a next state that it admits. -/
theorem exists_exec_admits (i : Instr) (s : State) :
    ∃ t, exec i s = .next t ∧ Admits i s t := by
  cases i
  case cls =>
    refine ⟨_, exec_cls s, .inr ?_⟩
    exact Footprint.frame_trans (Footprint.frame_advance _ s) (Footprint.frame_setGrid rfl _ _)
  case ret =>
    rcases Nat.lt_or_ge s.sp.toNat 2 with h | h
    · exact ⟨_, exec_ret_of_underflow h, .inl ⟨_, rfl, rfl⟩⟩
    · refine ⟨_, exec_ret_of_le h, .inr ?_⟩
      exact Footprint.frame_trans (Footprint.frame_setPc _ s _) (Footprint.frame_setSp rfl _ _)
  case call nnn =>
    rcases Nat.lt_or_ge s.params.size (s.sp.toNat + 2) with h | h
    · exact ⟨_, exec_call_of_overflow nnn h, .inl ⟨_, rfl, rfl⟩⟩
    · refine ⟨_, exec_call_of_le nnn h, .inr ?_⟩
      refine Footprint.frame_trans (Footprint.frame_storeWord ?_ ?_ s s.advance.pc)
        (Footprint.frame_trans (Footprint.frame_setPc _ _ (addrOperand nnn))
          (Footprint.frame_setSp rfl _ (s.sp + 2)))
      · exact List.mem_cons_self
      · exact List.mem_cons_of_mem _ List.mem_cons_self
  case jpNnn nnn => exact ⟨_, exec_jpNnn nnn s, .inr (Footprint.frame_setPc _ s _)⟩
  case jpV0 nnn => exact ⟨_, exec_jpV0 nnn s, .inr (Footprint.frame_setPc _ s _)⟩
  case seVxNn | sneVxNn | seVxVy | sneVxVy | skp | sknp =>
    exact ⟨_, rfl, .inr (Footprint.frame_trans (Footprint.frame_advance _ s)
      (Footprint.frame_skipIf _ _ _))⟩
  case ldVxNn | addVxNn | ldVxVy | orVxVy | andVxVy | xorVxVy | ldVxDt =>
    exact ⟨_, rfl, .inr (Footprint.frame_trans (Footprint.frame_advance _ s)
      (Footprint.frame_setReg List.mem_cons_self _ _))⟩
  case addVxVy | subVxVy | shrVxVy | subnVxVy | shlVxVy =>
    exact ⟨_, rfl, .inr (Footprint.frame_trans (Footprint.frame_advance _ s)
      (Footprint.frame_alu List.mem_cons_self (List.mem_cons_of_mem _ List.mem_cons_self) _ _ _ _))⟩
  case rnd x nn =>
    exact ⟨_, exec_rnd x nn s, .inr (Footprint.frame_trans (Footprint.frame_advance _ s)
      (Footprint.frame_rndWith List.mem_cons_self rfl _ _ _))⟩
  case ldVxK x =>
    cases h : s.keyActive with
    | false => exact ⟨_, exec_ldVxK_of_not_keyActive x h, .inr (Footprint.frame_refl _ s)⟩
    | true =>
      refine ⟨_, exec_ldVxK_of_keyActive x h, .inr ?_⟩
      refine Footprint.frame_trans (Footprint.frame_advance _ s) (Footprint.frame_setReg ?_ _ _)
      simp [Instr.footprint, h]
  case ldINnn nnn =>
    exact ⟨_, exec_ldINnn nnn s, .inr (Footprint.frame_trans (Footprint.frame_advance _ s)
      (Footprint.frame_setI rfl _ _))⟩
  case ldFVx x =>
    exact ⟨_, exec_ldFVx x s, .inr (Footprint.frame_trans (Footprint.frame_advance _ s)
      (Footprint.frame_setI rfl _ _))⟩
  case ldDtVx x =>
    exact ⟨_, exec_ldDtVx x s, .inr (Footprint.frame_trans (Footprint.frame_advance _ s)
      (Footprint.frame_setDt rfl _ _))⟩
  case ldStVx x =>
    exact ⟨_, exec_ldStVx x s, .inr (Footprint.frame_trans (Footprint.frame_advance _ s)
      (Footprint.frame_setSt rfl _ _))⟩
  case addIVx x =>
    refine ⟨_, exec_addIVx x s, .inr ?_⟩
    refine Footprint.frame_trans (Footprint.frame_advance _ s)
      (Footprint.frame_trans (Footprint.frame_setI rfl _ _) (Footprint.frame_setFlagIf ?_ _))
    intro h
    rw [indexOverflows_eq, decide_eq_true_eq, State.toNat_index_add] at h
    simp [Instr.footprint, h]
  case drw x y n =>
    refine exists_inMemory_admits _ _ _ rfl ?_
    exact Footprint.frame_trans (Footprint.frame_advance _ s)
      (Footprint.frame_trans (Footprint.frame_setGrid rfl _ _)
        (Footprint.frame_setReg List.mem_cons_self _ _))
  case ldBVx x =>
    refine exists_inMemory_admits _ _ _ rfl ?_
    refine Footprint.frame_trans (Footprint.frame_advance _ s) (Footprint.frame_store ?_ _)
    intro k hk
    exact List.mem_map.2 ⟨k, List.mem_range.2 hk, rfl⟩
  case ldMiVx x =>
    refine exists_inMemory_admits _ _ _ rfl ?_
    refine Footprint.frame_trans (Footprint.frame_advance _ s) (Footprint.frame_store ?_ _)
    intro k hk
    rw [List.length_map, length_regRange] at hk
    exact List.mem_map.2 ⟨k, List.mem_range.2 hk, rfl⟩
  case ldVxMi x =>
    refine exists_inMemory_admits _ _ _ rfl ?_
    exact Footprint.frame_trans (Footprint.frame_advance _ s)
      (Footprint.frame_loadRegs _ (fun _ hr => hr) _)

theorem admits_of_exec {i : Instr} {s t : State} (h : exec i s = .next t) :
    Admits i s t := by
  obtain ⟨u, hu, hadmits⟩ := exists_exec_admits i s
  obtain rfl : u = t := by simpa [hu] using h
  exact hadmits

/-- A frame keeps the status and the parameters. -/
theorem Footprint.frame_status {f : Footprint} {s t : State} (h : f.frame s t) :
    t.status = s.status := by
  obtain ⟨-, -, -, -, -, -, -, -, -, -, hstatus, -⟩ := h
  exact hstatus

theorem Footprint.frame_params {f : Footprint} {s t : State} (h : f.frame s t) :
    t.params = s.params := by
  obtain ⟨-, -, -, -, -, -, -, -, -, -, -, -, -, -, hparams⟩ := h
  exact hparams

/-- A fault taken by a machine whose status already holds the very same record changes nothing. -/
theorem State.takeFault_of_status_eq {s : State} {cause : FaultCause}
    (h : (s.takeFault cause).status = s.status) : s.takeFault cause = s :=
  congrArg (fun status => { s with status := status }) h

/-- Settles O53: each instruction is a composition of operations that keep its footprint. -/
theorem instructionsChangeOnlyTheirFootprint :
    Obligations.InstructionsChangeOnlyTheirFootprint := by
  intro i s t h hstatus
  obtain ⟨cause, rfl, -⟩ | hframe := admits_of_exec h
  · rw [State.takeFault_of_status_eq hstatus]
    exact Footprint.frame_refl _ s
  · exact hframe

end Sys2Proof.Machine

namespace Sys2Proof.Machine

/-! ### What a step can do to the whole machine -/

/-- An instruction tick takes a fault or changes within some footprint. -/
theorem instrTick_fault_or_frame {s u : State} (h : instrTick s = .next u) :
    (∃ cause, u = s.takeFault cause) ∨ ∃ f : Footprint, f.frame s u := by
  obtain ⟨a, -, htick⟩ | ⟨w, r, -, -, htick⟩ | ⟨w, i, -, -, htick⟩ := instrTick_cases s
  · exact .inl ⟨_, Host.Outcome.next.inj (h.symm.trans htick)⟩
  · exact .inl ⟨_, Host.Outcome.next.inj (h.symm.trans htick)⟩
  · obtain ⟨cause, hu, -⟩ | hframe := admits_of_exec (htick.symm.trans h)
    · exact .inl ⟨cause, hu⟩
    · exact .inr ⟨_, hframe⟩

theorem exists_instrTick_eq_next (s : State) : ∃ u, instrTick s = .next u := by
  obtain ⟨a, -, htick⟩ | ⟨w, r, -, -, htick⟩ | ⟨w, i, -, -, htick⟩ := instrTick_cases s
  · exact ⟨_, htick⟩
  · exact ⟨_, htick⟩
  · obtain ⟨t, ht, -⟩ := exists_exec_admits i s
    exact ⟨t, htick.trans ht⟩

theorem instrTick_params {s u : State} (h : instrTick s = .next u) : u.params = s.params := by
  obtain ⟨cause, rfl⟩ | ⟨f, hframe⟩ := instrTick_fault_or_frame h
  · exact State.takeFault_params s cause
  · exact Footprint.frame_params hframe

/-- A frame tick records no fault (R130). -/
theorem State.frameTick_status_ne_faulted {s : State} (hs : s.status = .running)
    (record : FaultRecord) : s.frameTick.status ≠ .faulted record := by
  rw [State.frameTick, State.frameTickWith_status, hs]
  split <;> exact Status.noConfusion

/-- Settles O50: a fault is taken as a next state, and no arm of `exec` refuses. -/
theorem runningMachineAlwaysSteps : Obligations.RunningMachineAlwaysSteps := by
  intro s hs
  cases hturn : s.arbiter.turn with
  | instr =>
    obtain ⟨u, hu⟩ := exists_instrTick_eq_next s
    exact ⟨u.afterTick, by rw [step_of_instr hs hturn, hu, afterTickResult]⟩
  | frame => exact ⟨_, step_of_frame hs hturn⟩

/-- Settles O60: the parameters lie outside every footprint, and a frame tick does not write them. -/
theorem stepKeepsParameters : Obligations.StepKeepsParameters := by
  intro s t h
  obtain ⟨-, ⟨-, u, hu, rfl⟩ | ⟨-, rfl⟩⟩ := step_cases h
  · rw [State.afterTick_params, instrTick_params hu]
  · rw [State.afterTick_params, State.frameTick, State.frameTickWith_params]

/-- Settles O48: the status lies outside every footprint, so a record comes from the instruction's own
fault. -/
theorem instructionFaultKinds : Obligations.InstructionFaultKinds := by
  intro i s t record hs h hfault
  obtain ⟨cause, rfl, hcode⟩ | hframe := admits_of_exec h
  · obtain rfl := Status.faulted.inj hfault
    exact ⟨hcode, rfl⟩
  · simp [Footprint.frame_status hframe, hs] at hfault

/-- Settles O47: only an instruction tick that takes a fault leaves a record, and a stopped machine keeps
its arbiter. -/
theorem faultsArePrecise : Obligations.FaultsArePrecise := by
  intro s t record hs h hfault
  obtain ⟨-, ⟨hturn, u, hu, rfl⟩ | ⟨-, rfl⟩⟩ := step_cases h
  · rw [State.afterTick_status] at hfault
    rw [State.afterTick_of_not_running (by simp [hfault])]
    obtain ⟨cause, rfl⟩ | ⟨f, hframe⟩ := instrTick_fault_or_frame hu
    · obtain rfl := Status.faulted.inj hfault
      exact ⟨rfl, rfl, hturn⟩
    · simp [Footprint.frame_status hframe, hs] at hfault
  · rw [State.afterTick_status] at hfault
    exact absurd hfault (State.frameTick_status_ne_faulted hs record)

/-! ### The invariant (spec/10_state.md R26, R33) -/

theorem State.inv_iff (s : State) : s.inv = true ↔
    s.memWf = true ∧ s.sp.toNat % 2 = 0 ∧ s.sp.toNat ≤ s.params.size := by
  simp only [State.inv, Bool.and_eq_true, decide_eq_true_eq, and_assoc]

/-- The invariant is about memory, `SP` and the parameters alone. -/
theorem State.inv_of_eq {s t : State} (hs : s.inv = true) (hmem : t.mem = s.mem)
    (hsp : t.sp = s.sp) (hparams : t.params = s.params) : t.inv = true := by
  simpa [State.inv, State.memWf, hmem, hsp, hparams] using hs

/-- A store inside memory, with `SP` as it was. -/
theorem State.inv_advance_store {s : State} {a : Nat} (vs : List Byte) (hs : s.inv = true)
    (ha : a + vs.length ≤ s.params.size) : (s.advance.store a vs).inv = true := by
  obtain ⟨hwf, heven, hle⟩ := s.inv_iff.1 hs
  exact (State.inv_iff _).2 ⟨State.memWf_store (s := s.advance) vs hwf ha, heven, hle⟩

theorem State.inv_takeFault {s : State} (cause : FaultCause) (hs : s.inv = true) :
    (s.takeFault cause).inv = true := State.inv_of_eq hs rfl rfl rfl

/-- The bounds check may rely on the bytes it has found to exist. -/
theorem inv_of_inMemory {base len : Nat} {w : Word} {s t u : State} (hs : s.inv = true)
    (ht : len = 0 ∨ base + len ≤ s.params.size → t.inv = true)
    (h : inMemory base len w s t = .next u) : u.inv = true := by
  obtain ⟨hin, rfl⟩ | ⟨-, -, rfl⟩ := inMemory_cases h
  · exact ht hin
  · exact State.inv_takeFault _ hs

theorem State.inv_ret {s t : State} (hs : s.inv = true) (h : exec .ret s = .next t) :
    t.inv = true := by
  rcases Nat.lt_or_ge s.sp.toNat 2 with hsp | hsp
  · obtain rfl := Host.Outcome.next.inj ((exec_ret_of_underflow hsp).symm.trans h)
    exact State.inv_takeFault _ hs
  · obtain rfl := Host.Outcome.next.inj ((exec_ret_of_le hsp).symm.trans h)
    obtain ⟨hwf, heven, hle⟩ := s.inv_iff.1 hs
    have hpop : (s.sp - 2).toNat = s.sp.toNat - 2 := BitVec.toNat_sub_of_le hsp
    refine (State.inv_iff _).2 ⟨hwf, ?_, ?_⟩
    · change (s.sp - 2).toNat % 2 = 0
      omega
    · change (s.sp - 2).toNat ≤ s.params.size
      omega

/-- The depth after a push: memory is far smaller than 0x10000, so the sum does not wrap. -/
theorem State.toNat_sp_add_two {s : State} (h : s.sp.toNat + 2 ≤ s.params.size) :
    (s.sp + 2).toNat = s.sp.toNat + 2 := by
  have hsize := s.params.size_cases
  rw [BitVec.toNat_add]
  exact Nat.mod_eq_of_lt (by change s.sp.toNat + 2 < 65536; omega)

theorem State.inv_call {s t : State} (nnn : BitVec 12) (hs : s.inv = true)
    (h : exec (.call nnn) s = .next t) : t.inv = true := by
  rcases Nat.lt_or_ge s.params.size (s.sp.toNat + 2) with hsp | hsp
  · obtain rfl := Host.Outcome.next.inj ((exec_call_of_overflow nnn hsp).symm.trans h)
    exact State.inv_takeFault _ hs
  · obtain rfl := Host.Outcome.next.inj ((exec_call_of_le nnn hsp).symm.trans h)
    obtain ⟨hwf, heven, hle⟩ := s.inv_iff.1 hs
    have hslot : s.pushAddr + 2 ≤ s.params.size := by unfold State.pushAddr; omega
    have hpush := State.toNat_sp_add_two hsp
    refine (State.inv_iff _).2 ⟨State.memWf_storeWord _ hwf hslot, ?_, ?_⟩
    · change (s.sp + 2).toNat % 2 = 0
      omega
    · change (s.sp + 2).toNat ≤ s.params.size
      omega

/-- Four instructions touch what the invariant is about: CALL and RET move `SP`, CALL, FX33 and FX55
store. -/
theorem exec_keeps_inv {i : Instr} {s t : State} (hs : s.inv = true) (h : exec i s = .next t) :
    t.inv = true := by
  cases i
  case ret => exact State.inv_ret hs h
  case call nnn => exact State.inv_call nnn hs h
  case ldBVx x =>
    refine inv_of_inMemory hs (fun hin => ?_) h
    exact State.inv_advance_store _ hs (hin.resolve_left (by decide))
  case ldMiVx x =>
    refine inv_of_inMemory hs (fun hin => ?_) h
    refine State.inv_advance_store _ hs ?_
    rw [List.length_map, length_regRange]
    exact hin.resolve_left (Nat.succ_ne_zero _)
  case ldVxMi x =>
    refine inv_of_inMemory hs (fun _ => ?_) h
    exact State.inv_of_eq hs (by simp) (by simp) (by simp)
  case drw x y n =>
    refine inv_of_inMemory hs (fun _ => ?_) h
    exact State.inv_of_eq hs rfl rfl rfl
  case ldVxK x =>
    cases hkey : s.keyActive with
    | false =>
      obtain rfl := Host.Outcome.next.inj ((exec_ldVxK_of_not_keyActive x hkey).symm.trans h)
      exact hs
    | true =>
      obtain rfl := Host.Outcome.next.inj ((exec_ldVxK_of_keyActive x hkey).symm.trans h)
      exact State.inv_of_eq hs rfl rfl rfl
  all_goals
    obtain rfl := Host.Outcome.next.inj h
    exact State.inv_of_eq hs (by simp) (by simp) (by simp)

theorem instrTick_keeps_inv {s u : State} (hs : s.inv = true) (h : instrTick s = .next u) :
    u.inv = true := by
  obtain ⟨a, -, htick⟩ | ⟨w, r, -, -, htick⟩ | ⟨w, i, -, -, htick⟩ := instrTick_cases s
  · obtain rfl := Host.Outcome.next.inj (htick.symm.trans h)
    exact State.inv_takeFault _ hs
  · obtain rfl := Host.Outcome.next.inj (htick.symm.trans h)
    exact State.inv_takeFault _ hs
  · exact exec_keeps_inv hs (htick.symm.trans h)

/-- Settles O54: an instruction tick keeps the invariant, and a frame tick and the arbiter do not touch
what it is about. -/
theorem stepKeepsInvariant : Obligations.StepKeepsInvariant := by
  intro s t hs h
  obtain ⟨-, ⟨-, u, hu, rfl⟩ | ⟨-, rfl⟩⟩ := step_cases h
  · exact State.inv_of_eq (instrTick_keeps_inv hs hu) (by simp) (by simp) (by simp)
  · exact State.inv_of_eq hs (by simp [State.frameTick]) (by simp [State.frameTick])
      (by simp [State.frameTick])

/-- Settles O55: after reset nothing is listed in memory and the stack is empty. -/
theorem resetHasInvariant : Obligations.ResetHasInvariant := fun p =>
  (State.inv_iff _).2 ⟨State.reset_mem_wf p, rfl, Nat.zero_le _⟩

end Sys2Proof.Machine

namespace Sys2Proof.Machine

/-! ### The inputs an instruction does not read (spec/10_state.md R28, R30) -/

/-- The state with another sound timer and another key latch. -/
def State.withInputs (st : Byte) (active : Bool) (key : BitVec 4) (s : State) : State :=
  { s with st := st, keyActive := active, key := key }

theorem State.withInputs_of_st_eq {st : Byte} {s : State} (h : s.st = st) (active : Bool)
    (key : BitVec 4) :
    s.withInputs st active key = { s with keyActive := active, key := key } := by
  rw [← h]
  rfl

theorem State.withInputs_of_latch_eq {active : Bool} {key : BitVec 4} {s : State}
    (hactive : s.keyActive = active) (hkey : s.key = key) (st : Byte) :
    s.withInputs st active key = { s with st := st } := by
  rw [← hactive, ← hkey]
  rfl

theorem State.withInputs_skipIf (st : Byte) (active : Bool) (key : BitVec 4) (c : Bool) (s : State) :
    (s.withInputs st active key).skipIf c = (s.skipIf c).withInputs st active key := by
  cases c <;> rfl

theorem State.withInputs_setFlagIf (st : Byte) (active : Bool) (key : BitVec 4) (c : Bool)
    (s : State) :
    (s.withInputs st active key).setFlagIf c = (s.setFlagIf c).withInputs st active key := by
  cases c <;> rfl

theorem State.withInputs_loadRegs (st : Byte) (active : Bool) (key : BitVec 4) (base : Nat)
    (rs : List RegIdx) (s : State) :
    (s.withInputs st active key).loadRegs base rs =
      (s.loadRegs base rs).withInputs st active key := by
  induction rs generalizing s with
  | nil => rfl
  | cons r rs ih => exact ih (s.setReg r (s.byteAt (base + r.val)))

/-- The bounds check reads the parameters alone. -/
theorem inMemory_withInputs (st : Byte) (active : Bool) (key : BitVec 4) {base len : Nat} {w : Word}
    {s t u : State} (h : inMemory base len w s t = .next u) :
    inMemory base len w (s.withInputs st active key) (t.withInputs st active key) =
      .next (u.withInputs st active key) := by
  obtain ⟨hin, rfl⟩ | ⟨hlen, hout, rfl⟩ := inMemory_cases h
  · exact inMemory_of_inside hin
  · exact inMemory_of_outside hlen hout

/-- An instruction other than FX18 carries another `ST` along, and another key latch as well unless it
reads the latch. -/
theorem exec_withInputs {i : Instr} {s t : State} (st : Byte) {active : Bool} {key : BitVec 4}
    (hkey : i.readsKey = false ∨ (active = s.keyActive ∧ key = s.key))
    (hst : ∀ x, i ≠ .ldStVx x) (h : exec i s = .next t) :
    exec i (s.withInputs st active key) = .next (t.withInputs st active key) := by
  cases i
  case ldStVx x => exact absurd rfl (hst x)
  case skp x | sknp x =>
    obtain ⟨rfl, rfl⟩ := hkey.resolve_left Bool.noConfusion
    obtain rfl := Host.Outcome.next.inj h
    exact congrArg _ (State.withInputs_skipIf _ _ _ _ s.advance)
  case ldVxK x =>
    obtain ⟨rfl, rfl⟩ := hkey.resolve_left Bool.noConfusion
    cases hactive : s.keyActive with
    | false =>
      obtain rfl := Host.Outcome.next.inj ((exec_ldVxK_of_not_keyActive x hactive).symm.trans h)
      exact exec_ldVxK_of_not_keyActive x rfl
    | true =>
      obtain rfl := Host.Outcome.next.inj ((exec_ldVxK_of_keyActive x hactive).symm.trans h)
      exact exec_ldVxK_of_keyActive x rfl
  case ret =>
    rcases Nat.lt_or_ge s.sp.toNat 2 with hsp | hsp
    · obtain rfl := Host.Outcome.next.inj ((exec_ret_of_underflow hsp).symm.trans h)
      exact exec_ret_of_underflow hsp
    · obtain rfl := Host.Outcome.next.inj ((exec_ret_of_le hsp).symm.trans h)
      exact exec_ret_of_le hsp
  case call nnn =>
    rcases Nat.lt_or_ge s.params.size (s.sp.toNat + 2) with hsp | hsp
    · obtain rfl := Host.Outcome.next.inj ((exec_call_of_overflow nnn hsp).symm.trans h)
      exact exec_call_of_overflow nnn hsp
    · obtain rfl := Host.Outcome.next.inj ((exec_call_of_le nnn hsp).symm.trans h)
      exact exec_call_of_le nnn hsp
  case drw | ldBVx | ldMiVx => exact inMemory_withInputs st active key h
  case ldVxMi x =>
    refine Eq.trans ?_ (inMemory_withInputs st active key h)
    exact congrArg (inMemory _ _ _ _) (State.withInputs_loadRegs st active key _ _ s.advance)
  case addIVx x =>
    obtain rfl := Host.Outcome.next.inj h
    exact congrArg Host.Outcome.next (State.withInputs_setFlagIf st active key _
      { s.advance with i := s.i + s.regWide x })
  case seVxNn | sneVxNn | seVxVy | sneVxVy =>
    obtain rfl := Host.Outcome.next.inj h
    exact congrArg _ (State.withInputs_skipIf st active key _ s.advance)
  all_goals
    obtain rfl := Host.Outcome.next.inj h
    rfl

/-- Only FX18 writes `ST`: it lies outside every other footprint, and a fault keeps it. -/
theorem exec_st {i : Instr} {s t : State} (hst : ∀ x, i ≠ .ldStVx x) (h : exec i s = .next t) :
    t.st = s.st := by
  obtain ⟨cause, rfl, -⟩ | ⟨-, -, -, -, hframe, -⟩ := admits_of_exec h
  · rfl
  · refine hframe ?_
    cases i
    case ldStVx x => exact absurd rfl (hst x)
    all_goals rfl

/-- No instruction writes the key latch. -/
theorem exec_latch {i : Instr} {s t : State} (h : exec i s = .next t) :
    t.keyActive = s.keyActive ∧ t.key = s.key := by
  obtain ⟨cause, rfl, -⟩ | ⟨-, -, -, -, -, -, -, -, hactive, hkey, -⟩ := admits_of_exec h
  · exact ⟨rfl, rfl⟩
  · exact ⟨hactive, hkey⟩

/-- Settles O56: an instruction that does not read the latch carries another one along; FX18 is looked at
by itself, as the one that writes `ST`. -/
theorem keyLatchReadByKeyInstructionsOnly : Obligations.KeyLatchReadByKeyInstructionsOnly := by
  intro i s active key hkey
  by_cases hst : ∃ x, i = .ldStVx x
  · obtain ⟨x, rfl⟩ := hst
    exact ⟨_, exec_ldStVx x s, rfl⟩
  · have hst (x : RegIdx) : i ≠ .ldStVx x := fun hi => hst ⟨x, hi⟩
    obtain ⟨t, ht, -⟩ := exists_exec_admits i s
    refine ⟨t, ht, ?_⟩
    rw [← State.withInputs_of_st_eq rfl, ← State.withInputs_of_st_eq (exec_st hst ht)]
    exact exec_withInputs s.st (.inl hkey) hst ht

/-- Settles O57: an instruction other than FX18 carries another `ST` along, and FX18 overwrites it. -/
theorem soundTimerReadByNoInstruction : Obligations.SoundTimerReadByNoInstruction := by
  intro i s st
  by_cases hst : ∃ x, i = .ldStVx x
  · obtain ⟨x, rfl⟩ := hst
    exact ⟨_, _, exec_ldStVx x s, exec_ldStVx x { s with st := st }, rfl, .inl rfl⟩
  · have hst (x : RegIdx) : i ≠ .ldStVx x := fun hi => hst ⟨x, hi⟩
    obtain ⟨t, ht, -⟩ := exists_exec_admits i s
    obtain ⟨hactive, hkey⟩ := exec_latch ht
    refine ⟨t, { t with st := st }, ht, ?_, rfl, .inr ⟨exec_st hst ht, rfl⟩⟩
    rw [← State.withInputs_of_latch_eq rfl rfl, ← State.withInputs_of_latch_eq hactive hkey]
    exact exec_withInputs st (.inr ⟨rfl, rfl⟩) hst ht

end Sys2Proof.Machine

namespace Sys2Proof

/-! ### A word from its fields (spec/30_encoding.md R61, R62) -/

theorem wordXnn_fields (w : Word) : wordXnn (fieldFam w) (fieldX w) (fieldNn w) = w := by
  have hlow : regBits (fieldX w) ++ fieldNn w = w.extractLsb' 0 12 :=
    BitVec.extractLsb'_append_extractLsb'_eq_extractLsb' rfl
  rw [wordXnn, hlow]
  exact (BitVec.extractLsb'_append_extractLsb'_eq_extractLsb' rfl).trans BitVec.extractLsb'_eq_self

theorem wordNnn_fields (w : Word) : wordNnn (fieldFam w) (fieldNnn w) = w :=
  (BitVec.extractLsb'_append_extractLsb'_eq_extractLsb' rfl).trans BitVec.extractLsb'_eq_self

theorem wordXyn_fields (w : Word) :
    wordXyn (fieldFam w) (fieldX w) (fieldY w) (fieldN w) = w := by
  have hlow : regBits (fieldY w) ++ fieldN w = fieldNn w :=
    BitVec.extractLsb'_append_extractLsb'_eq_extractLsb' rfl
  rw [wordXyn, hlow]
  exact wordXnn_fields w

/-! ### Decoding an encoding (R76, R77) -/

/-- Settles O1: the fields of each format's word are the operands put into it. -/
theorem decodeEncodeRoundTrip : Obligations.DecodeEncodeRoundTrip := by
  intro i hwf
  cases i
  case cls | ret => decide
  case drw x y n =>
    have hn : n % 16 = n := Nat.mod_eq_of_lt (of_decide_eq_true hwf)
    simp [encode, decode, hn]
  case jpNnn | call | ldINnn | jpV0 => simp [encode, decode]
  case seVxNn | sneVxNn | ldVxNn | addVxNn | rnd => simp [encode, decode]
  case seVxVy | sneVxVy => simp [encode, decode]
  case ldVxVy | orVxVy | andVxVy | xorVxVy | addVxVy | subVxVy | shrVxVy | subnVxVy | shlVxVy =>
    simp [encode, decode, decode8]
  case skp | sknp => simp [encode, decode, decodeE]
  case ldVxDt | ldVxK | ldDtVx | ldStVx | addIVx | ldFVx | ldBVx | ldMiVx | ldVxMi =>
    simp [encode, decode, decodeF]

end Sys2Proof

namespace Sys2Proof

/-! ### What the decoder rejects (spec/30_encoding.md R66 to R69) -/

theorem decode0_eq_error_iff (w : Word) (r : Reject) : decode0 w = .error r ↔
    r = .family0 ∧ w.toNat ≠ 0x00E0 ∧ w.toNat ≠ 0x00EE := by
  have hcls : w.toNat = 0x00E0 ↔ w = 0x00E0#16 := (BitVec.toNat_inj (y := 0x00E0#16))
  have hret : w.toNat = 0x00EE ↔ w = 0x00EE#16 := (BitVec.toNat_inj (y := 0x00EE#16))
  rw [ne_eq, ne_eq, hcls, hret]
  unfold decode0
  split
  case isTrue h => simp [h]
  case isFalse h =>
    split
    case isTrue h' => simp [h']
    case isFalse h' => simp [h, h', eq_comm]

theorem decode8_eq_error_iff (w : Word) (r : Reject) : decode8 w = .error r ↔
    r = .family8 ∧ 8 ≤ w.toNat % 16 ∧ w.toNat % 16 ≠ 0xE := by
  simp only [decode8, toNat_fieldN]
  split
  case h_10 =>
    have hn : 8 ≤ w.toNat % 16 ∧ w.toNat % 16 ≠ 0xE := by
      simp only [imp_false] at *
      omega
    simp [hn, eq_comm]
  all_goals simp [*]

theorem decodeE_eq_error_iff (w : Word) (r : Reject) : decodeE w = .error r ↔
    r = .familyE ∧ w.toNat % 256 ≠ 0x9E ∧ w.toNat % 256 ≠ 0xA1 := by
  simp only [decodeE, toNat_fieldNn]
  split
  case h_3 hskp hsknp =>
    have hnn : w.toNat % 256 ≠ 0x9E ∧ w.toNat % 256 ≠ 0xA1 := ⟨hskp, hsknp⟩
    simp [hnn, eq_comm]
  all_goals simp [*]

theorem decodeF_eq_error_iff (w : Word) (r : Reject) : decodeF w = .error r ↔
    r = .familyF ∧
      w.toNat % 256 ∉ [0x07, 0x0A, 0x15, 0x18, 0x1E, 0x29, 0x33, 0x55, 0x65] := by
  simp only [decodeF, toNat_fieldNn]
  split
  case h_10 =>
    have hnn : w.toNat % 256 ∉ [0x07, 0x0A, 0x15, 0x18, 0x1E, 0x29, 0x33, 0x55, 0x65] := by
      simp only [List.mem_cons, List.not_mem_nil, or_false]
      simp only [imp_false] at *
      omega
    simp only [hnn, not_false_eq_true, and_true, Except.error.injEq, eq_comm]
  all_goals simp [*]

/-- Four families can reject, each by its own selector (R65, R73). -/
theorem decode_eq_error_iff (w : Word) (r : Reject) : decode w = .error r ↔
    (w.toNat / 4096 = 0 ∧ decode0 w = .error r) ∨ (w.toNat / 4096 = 8 ∧ decode8 w = .error r) ∨
    (w.toNat / 4096 = 0xE ∧ decodeE w = .error r) ∨
    (w.toNat / 4096 = 0xF ∧ decodeF w = .error r) := by
  simp only [decode, toNat_fieldFam]
  split
  case h_16 =>
    have hfam : w.toNat / 4096 = 0xF := by
      have hlt : w.toNat < 65536 := w.isLt
      simp only [imp_false] at *
      omega
    simp [hfam]
  all_goals simp [*]

/-- Settles O6: each family that can reject has its own name. -/
theorem unsupportedWords : Obligations.UnsupportedWords := by
  intro w
  simp [decode_eq_error_iff, decode0_eq_error_iff, decode8_eq_error_iff, decodeE_eq_error_iff,
    decodeF_eq_error_iff]

/-! ### What the decoder accepts (R65 to R71) -/

theorem wordNnn_of_fields {w : Word} {f : BitVec 4} (hf : (fieldFam w).toNat = f.toNat) :
    wordNnn f (fieldNnn w) = w := by
  rw [← BitVec.eq_of_toNat_eq hf, wordNnn_fields]

theorem wordXnn_of_fields {w : Word} {f : BitVec 4} {nn : Byte}
    (hf : (fieldFam w).toNat = f.toNat) (hnn : (fieldNn w).toNat = nn.toNat) :
    wordXnn f (fieldX w) nn = w := by
  rw [← BitVec.eq_of_toNat_eq hf, ← BitVec.eq_of_toNat_eq hnn, wordXnn_fields]

theorem wordXyn_of_fields {w : Word} {f n : BitVec 4} (hf : (fieldFam w).toNat = f.toNat)
    (hn : (fieldN w).toNat = n.toNat) : wordXyn f (fieldX w) (fieldY w) n = w := by
  rw [← BitVec.eq_of_toNat_eq hf, ← BitVec.eq_of_toNat_eq hn, wordXyn_fields]

theorem decode0_ok {w : Word} {i : Instr} (h : decode0 w = .ok i) :
    i.wellFormed = true ∧ encode i = w := by
  unfold decode0 at h
  split at h
  case isTrue hw =>
    obtain rfl := Except.ok.inj h
    exact ⟨rfl, hw.symm⟩
  case isFalse =>
    split at h
    case isTrue hw =>
      obtain rfl := Except.ok.inj h
      exact ⟨rfl, hw.symm⟩
    case isFalse => cases h

theorem decode8_ok {w : Word} {i : Instr} (hfam : (fieldFam w).toNat = 8)
    (h : decode8 w = .ok i) : i.wellFormed = true ∧ encode i = w := by
  simp only [decode8] at h
  split at h
  case h_10 => cases h
  all_goals
    obtain rfl := Except.ok.inj h
    exact ⟨rfl, wordXyn_of_fields hfam ‹_›⟩

theorem decodeE_ok {w : Word} {i : Instr} (hfam : (fieldFam w).toNat = 0xE)
    (h : decodeE w = .ok i) : i.wellFormed = true ∧ encode i = w := by
  simp only [decodeE] at h
  split at h
  case h_3 => cases h
  all_goals
    obtain rfl := Except.ok.inj h
    exact ⟨rfl, wordXnn_of_fields hfam ‹_›⟩

theorem decodeF_ok {w : Word} {i : Instr} (hfam : (fieldFam w).toNat = 0xF)
    (h : decodeF w = .ok i) : i.wellFormed = true ∧ encode i = w := by
  simp only [decodeF] at h
  split at h
  case h_10 => cases h
  all_goals
    obtain rfl := Except.ok.inj h
    exact ⟨rfl, wordXnn_of_fields hfam ‹_›⟩

/-- A decoded word is the encoding, or belongs to one of the two families with ignored bits (R71). -/
theorem decode_ok_cases {w : Word} {i : Instr} (h : decode w = .ok i) :
    (w.toNat / 4096 ≠ 5 ∧ w.toNat / 4096 ≠ 9 ∧ i.wellFormed = true ∧ encode i = w) ∨
    (w.toNat / 4096 = 5 ∧ i = .seVxVy (fieldX w) (fieldY w)) ∨
    (w.toNat / 4096 = 9 ∧ i = .sneVxVy (fieldX w) (fieldY w)) := by
  rw [← toNat_fieldFam]
  simp only [decode] at h
  split at h
  case h_6 hfam => exact .inr (.inl ⟨hfam, (Except.ok.inj h).symm⟩)
  case h_10 hfam => exact .inr (.inr ⟨hfam, (Except.ok.inj h).symm⟩)
  case h_1 hfam => exact .inl ⟨by omega, by omega, decode0_ok h⟩
  case h_9 hfam => exact .inl ⟨by omega, by omega, decode8_ok hfam h⟩
  case h_15 hfam => exact .inl ⟨by omega, by omega, decodeE_ok hfam h⟩
  case h_16 =>
    have hfam : (fieldFam w).toNat = 0xF := by
      have hlt : (fieldFam w).toNat < 16 := (fieldFam w).isLt
      simp only [imp_false] at *
      omega
    exact .inl ⟨by omega, by omega, decodeF_ok hfam h⟩
  case h_14 hfam =>
    obtain rfl := Except.ok.inj h
    refine .inl ⟨by omega, by omega, decide_eq_true (fieldN w).isLt, ?_⟩
    exact wordXyn_of_fields hfam (by rw [BitVec.ofNat_toNat, BitVec.setWidth_eq])
  case h_2 hfam | h_3 hfam | h_11 hfam | h_12 hfam =>
    obtain rfl := Except.ok.inj h
    exact .inl ⟨by omega, by omega, rfl, wordNnn_of_fields hfam⟩
  all_goals
    obtain rfl := Except.ok.inj h
    exact .inl ⟨by omega, by omega, rfl, wordXnn_of_fields ‹_› rfl⟩

/-- Clearing bits 3:0 is putting 0 in the field `n`. -/
theorem and_FFF0 (w : Word) :
    w &&& 0xFFF0#16 = wordXyn (fieldFam w) (fieldX w) (fieldY w) 0#4 := by
  have hfam : fieldFam (w &&& 0xFFF0#16) = fieldFam w :=
    BitVec.extractLsb'_and.trans BitVec.and_allOnes
  have hx : fieldX (w &&& 0xFFF0#16) = fieldX w :=
    congrArg BitVec.toFin (BitVec.extractLsb'_and.trans BitVec.and_allOnes)
  have hy : fieldY (w &&& 0xFFF0#16) = fieldY w :=
    congrArg BitVec.toFin (BitVec.extractLsb'_and.trans BitVec.and_allOnes)
  have hn : fieldN (w &&& 0xFFF0#16) = 0#4 := BitVec.extractLsb'_and.trans BitVec.and_zero
  rw [← wordXyn_fields (w &&& 0xFFF0#16), hfam, hx, hy, hn]

theorem and_FFF0_of_fam {w : Word} {f : BitVec 4} (hf : w.toNat / 4096 = f.toNat) :
    wordXyn f (fieldX w) (fieldY w) 0#4 = w &&& 0xFFF0#16 := by
  rw [and_FFF0, BitVec.eq_of_toNat_eq ((toNat_fieldFam w).trans hf)]

/-- Settles O2: outside families 5 and 9 every bit of the word is in an operand or fixed. -/
theorem encodeOfDecodedIsTheWord : Obligations.EncodeOfDecodedIsTheWord := by
  intro w i h
  obtain ⟨h5, h9, hwf, hencode⟩ | ⟨h5, rfl⟩ | ⟨h9, rfl⟩ := decode_ok_cases h
  · rw [if_neg (not_or.2 ⟨h5, h9⟩)]
    exact ⟨hwf, hencode⟩
  · rw [if_pos (.inl h5)]
    exact ⟨rfl, and_FFF0_of_fam h5⟩
  · rw [if_pos (.inr h9)]
    exact ⟨rfl, and_FFF0_of_fam h9⟩

/-! ### The rows of the opcode table (R76) -/
/-- Settles O4: a word of two rows would make their matches agree under both masks. -/
theorem opcodeRowsDoNotOverlap : Obligations.OpcodeRowsDoNotOverlap := by
  have hdiffer : opcodeTable.Pairwise fun r q => r.value &&& q.mask ≠ q.value &&& r.mask := by
    decide
  refine hdiffer.imp fun {r q} hne w ⟨hr, hq⟩ => hne ?_
  rw [← hr, ← hq, BitVec.and_assoc, BitVec.and_assoc, BitVec.and_comm r.mask]

/-- Settles O7: the decoder computes. -/
theorem specWordsDecode : Obligations.SpecWordsDecode :=
  ⟨rfl, rfl, rfl, rfl, rfl, rfl, rfl, rfl⟩

theorem and_F000 (w : Word) : w &&& 0xF000#16 = wordNnn (fieldFam w) 0#12 := by
  have hfam : fieldFam (w &&& 0xF000#16) = fieldFam w :=
    BitVec.extractLsb'_and.trans BitVec.and_allOnes
  have hnnn : fieldNnn (w &&& 0xF000#16) = 0#12 := BitVec.extractLsb'_and.trans BitVec.and_zero
  rw [← wordNnn_fields (w &&& 0xF000#16), hfam, hnnn]

theorem and_F00F (w : Word) : w &&& 0xF00F#16 = wordXyn (fieldFam w) 0 0 (fieldN w) := by
  have hfam : fieldFam (w &&& 0xF00F#16) = fieldFam w :=
    BitVec.extractLsb'_and.trans BitVec.and_allOnes
  have hx : fieldX (w &&& 0xF00F#16) = 0 :=
    congrArg BitVec.toFin (BitVec.extractLsb'_and.trans BitVec.and_zero)
  have hy : fieldY (w &&& 0xF00F#16) = 0 :=
    congrArg BitVec.toFin (BitVec.extractLsb'_and.trans BitVec.and_zero)
  have hn : fieldN (w &&& 0xF00F#16) = fieldN w :=
    BitVec.extractLsb'_and.trans BitVec.and_allOnes
  rw [← wordXyn_fields (w &&& 0xF00F#16), hfam, hx, hy, hn]

theorem and_F0FF (w : Word) : w &&& 0xF0FF#16 = wordXnn (fieldFam w) 0 (fieldNn w) := by
  have hfam : fieldFam (w &&& 0xF0FF#16) = fieldFam w :=
    BitVec.extractLsb'_and.trans BitVec.and_allOnes
  have hx : fieldX (w &&& 0xF0FF#16) = 0 :=
    congrArg BitVec.toFin (BitVec.extractLsb'_and.trans BitVec.and_zero)
  have hnn : fieldNn (w &&& 0xF0FF#16) = fieldNn w :=
    BitVec.extractLsb'_and.trans BitVec.and_allOnes
  rw [← wordXnn_fields (w &&& 0xF0FF#16), hfam, hx, hnn]

/-- An encoding carries the match of its row: the mask keeps the fixed fields of the format. -/
theorem encode_and_mask (i : Instr) : encode i &&& i.row.mask = i.row.value := by
  cases i
  case cls | ret => rfl
  case ldVxVy | orVxVy | andVxVy | xorVxVy | addVxVy | subVxVy | shrVxVy | subnVxVy | shlVxVy =>
    exact (and_F00F _).trans (by rw [encode, fieldFam_wordXyn, fieldN_wordXyn]; rfl)
  case skp | sknp | ldVxDt | ldVxK | ldDtVx | ldStVx | addIVx | ldFVx | ldBVx | ldMiVx | ldVxMi =>
    exact (and_F0FF _).trans (by rw [encode, fieldFam_wordXnn, fieldNn_wordXnn]; rfl)
  case jpNnn | call | ldINnn | jpV0 =>
    exact (and_F000 _).trans (by rw [encode, fieldFam_wordNnn]; rfl)
  case seVxNn | sneVxNn | ldVxNn | addVxNn | rnd =>
    exact (and_F000 _).trans (by rw [encode, fieldFam_wordXnn]; rfl)
  case seVxVy | sneVxVy | drw =>
    exact (and_F000 _).trans (by rw [encode, fieldFam_wordXyn]; rfl)

theorem Instr.row_mem_opcodeTable (i : Instr) : i.row ∈ opcodeTable := by
  cases i <;> simp [Instr.row, opcodeTable]

theorem and_F000_of_fam {w : Word} {f : BitVec 4} (hf : w.toNat / 4096 = f.toNat) :
    w &&& 0xF000#16 = wordNnn f 0#12 := by
  rw [and_F000, BitVec.eq_of_toNat_eq ((toNat_fieldFam w).trans hf)]

theorem and_mask_of_decode {w : Word} {i : Instr} (h : decode w = .ok i) :
    w &&& i.row.mask = i.row.value := by
  obtain ⟨-, -, -, rfl⟩ | ⟨h5, rfl⟩ | ⟨h9, rfl⟩ := decode_ok_cases h
  · exact encode_and_mask i
  · exact and_F000_of_fam (f := 0x5#4) h5
  · exact and_F000_of_fam (f := 0x9#4) h9

/-- A field that a mask keeps whole is the match's. -/
theorem extractLsb'_of_and {w m v : Word} {lo len : Nat} (h : w &&& m = v)
    (hm : m.extractLsb' lo len = BitVec.allOnes len) :
    w.extractLsb' lo len = v.extractLsb' lo len := by
  rw [← h, BitVec.extractLsb'_and, hm, BitVec.and_allOnes]

/-- Every row fixes the family, and in a family that can reject a selector that the decoder takes. -/
theorem opcodeTable_selectors : ∀ r ∈ opcodeTable,
    fieldFam r.mask = BitVec.allOnes 4 ∧
    (r.value.toNat / 4096 = 0 →
      r.mask = BitVec.allOnes 16 ∧ (r.value.toNat = 0x00E0 ∨ r.value.toNat = 0x00EE)) ∧
    (r.value.toNat / 4096 = 8 → fieldN r.mask = BitVec.allOnes 4 ∧
      ¬ (8 ≤ r.value.toNat % 16 ∧ r.value.toNat % 16 ≠ 0xE)) ∧
    (r.value.toNat / 4096 = 0xE → fieldNn r.mask = BitVec.allOnes 8 ∧
      ¬ (r.value.toNat % 256 ≠ 0x9E ∧ r.value.toNat % 256 ≠ 0xA1)) ∧
    (r.value.toNat / 4096 = 0xF → fieldNn r.mask = BitVec.allOnes 8 ∧
      r.value.toNat % 256 ∈ [0x07, 0x0A, 0x15, 0x18, 0x1E, 0x29, 0x33, 0x55, 0x65]) := by
  decide

theorem decode_of_row {w : Word} {r : OpcodeRow} (hr : r ∈ opcodeTable)
    (h : w &&& r.mask = r.value) : ∃ i, decode w = .ok i := by
  obtain ⟨hmask, h0, h8, hE, hF⟩ := opcodeTable_selectors r hr
  have hfam : w.toNat / 4096 = r.value.toNat / 4096 := by
    rw [← toNat_fieldFam, ← toNat_fieldFam]
    exact congrArg BitVec.toNat (extractLsb'_of_and h hmask)
  have hn (hm : fieldN r.mask = BitVec.allOnes 4) : w.toNat % 16 = r.value.toNat % 16 := by
    rw [← toNat_fieldN, ← toNat_fieldN]
    exact congrArg BitVec.toNat (extractLsb'_of_and h hm)
  have hnn (hm : fieldNn r.mask = BitVec.allOnes 8) : w.toNat % 256 = r.value.toNat % 256 := by
    rw [← toNat_fieldNn, ← toNat_fieldNn]
    exact congrArg BitVec.toNat (extractLsb'_of_and h hm)
  cases hw : decode w with
  | ok i => exact ⟨i, rfl⟩
  | error e =>
    exfalso
    rw [decode_eq_error_iff, decode0_eq_error_iff, decode8_eq_error_iff, decodeE_eq_error_iff,
      decodeF_eq_error_iff] at hw
    obtain ⟨hf, -, hcls, hret⟩ | ⟨hf, -, hrej⟩ | ⟨hf, -, hrej⟩ | ⟨hf, -, hrej⟩ := hw
    · obtain ⟨hm, hval⟩ := h0 (hfam ▸ hf)
      rw [hm, BitVec.and_allOnes] at h
      exact hval.elim (fun e => hcls (h ▸ e)) (fun e => hret (h ▸ e))
    · obtain ⟨hm, hval⟩ := h8 (hfam ▸ hf)
      exact hval (hn hm ▸ hrej)
    · obtain ⟨hm, hval⟩ := hE (hfam ▸ hf)
      exact hval (hnn hm ▸ hrej)
    · obtain ⟨hm, hval⟩ := hF (hfam ▸ hf)
      exact hrej (hnn hm ▸ hval)

/-- Settles O3: a row is the fixed fields of its instruction's format, and they are what the decoder
selects on. -/
theorem decoderAgreesWithOpcodeTable : Obligations.DecoderAgreesWithOpcodeTable := by
  refine ⟨fun w i h => ⟨and_mask_of_decode h, i.row_mem_opcodeTable⟩, fun w h => ?_, rfl⟩
  obtain ⟨r, hr, hw⟩ := h
  exact decode_of_row hr hw

/-- Bits 3:0 are cleared without effect on the fields that families 5 and 9 look at (R71). -/
theorem decode_and_FFF0 {w : Word} (h : w.toNat / 4096 = 5 ∨ w.toNat / 4096 = 9) :
    decode w = decode (w &&& 0xFFF0#16) := by
  rw [and_FFF0]
  obtain h | h := h
  all_goals
    rw [← toNat_fieldFam] at h
    simp [decode, h]

end Sys2Proof

namespace Sys2Proof.Machine

/-- Settles O15: each skip is the cycle's advance and, where its comparison holds, a second one; the
decoder does not look at bits 3:0 of the word. -/
theorem skipsOnRegisters : Obligations.SkipsOnRegisters := by
  refine ⟨fun x y s => ⟨?_, ?_⟩, fun w h => decode_and_FFF0 h⟩
  · rw [exec_seVxVy, State.skipIf_beq_advance]
  · rw [exec_sneVxVy, State.skipIf_bne_advance]

end Sys2Proof.Machine

namespace Sys2Proof

/-! ### Bytes and words as numbers (spec/00_scope.md R9) -/

theorem toNat_highByte (w : Word) : (highByte w).toNat = w.toNat / 256 := by
  have hw : w.toNat / 256 < 256 := Nat.div_lt_of_lt_mul w.isLt
  exact (toNat_extractLsb'_eq_div_mod w 8 8).trans (Nat.mod_eq_of_lt hw)

theorem toNat_lowByte (w : Word) : (lowByte w).toNat = w.toNat % 256 :=
  toNat_extractLsb'_zero_eq_mod w 8

theorem toNat_wordOfBytes (hi lo : Byte) :
    (wordOfBytes hi lo).toNat = 256 * hi.toNat + lo.toNat := by
  rw [wordOfBytes, BitVec.toNat_append, ← Nat.shiftLeft_add_eq_or_of_lt lo.isLt,
    Nat.shiftLeft_eq, Nat.mul_comm]

end Sys2Proof

namespace Sys2Proof.Machine

/-! ### The canonical form of memory (log entry 11) -/

section Canonical

variable {p : Params}

theorem Memory.wfFrom_cons {lo a : Nat} {v : Byte} {m : Memory} :
    Memory.wfFrom p lo ((a, v) :: m) = true ↔
      lo ≤ a ∧ a < p.size ∧ v ≠ Memory.initial p a ∧ Memory.wfFrom p (a + 1) m = true := by
  simp only [Memory.wfFrom, Bool.and_eq_true, decide_eq_true_eq, bne_iff_ne, and_assoc]

theorem Memory.read_cons_self (a : Nat) (v : Byte) (m : Memory) :
    Memory.read p ((a, v) :: m) a = v := if_pos rfl

theorem Memory.read_cons_of_ne {a b : Nat} (v : Byte) (m : Memory) (h : b ≠ a) :
    Memory.read p ((a, v) :: m) b = m.read p b := if_neg h

/-- The first entry of a canonical list reads otherwise than an unlisted address, so a list that reads
alike begins no later. -/
theorem Memory.first_le_of_read_eq {lo lo' a b : Nat} {v u : Byte} {m n : Memory}
    (hm : Memory.wfFrom p lo ((a, v) :: m) = true) (hn : Memory.wfFrom p lo' ((b, u) :: n) = true)
    (h : Memory.read p ((a, v) :: m) a = Memory.read p ((b, u) :: n) a) : b ≤ a := by
  by_contra hlt
  obtain ⟨-, -, hv, -⟩ := Memory.wfFrom_cons.1 hm
  obtain ⟨-, hb, hu, hrest⟩ := Memory.wfFrom_cons.1 hn
  have hunlisted : Memory.read p ((b, u) :: n) a = Memory.initial p a :=
    Memory.read_of_lt (Memory.wfFrom_cons.2 ⟨le_refl b, hb, hu, hrest⟩) (Nat.not_le.1 hlt)
  exact hv ((Memory.read_cons_self a v m).symm.trans (h.trans hunlisted))

/-- Two canonical lists that read alike have the same first entry, and their rests read alike. -/
theorem Memory.eq_of_read_eq {lo lo' : Nat} {m n : Memory} (hm : Memory.wfFrom p lo m = true)
    (hn : Memory.wfFrom p lo' n = true) (h : ∀ a, m.read p a = n.read p a) : m = n := by
  induction m generalizing lo lo' n with
  | nil =>
    cases n with
    | nil => rfl
    | cons d n =>
      obtain ⟨b, u⟩ := d
      obtain ⟨-, -, hu, -⟩ := Memory.wfFrom_cons.1 hn
      exact absurd ((h b).trans (Memory.read_cons_self b u n)).symm hu
  | cons c m ih =>
    obtain ⟨a, v⟩ := c
    obtain ⟨-, -, hv, hrest⟩ := Memory.wfFrom_cons.1 hm
    cases n with
    | nil => exact absurd ((Memory.read_cons_self a v m).symm.trans (h a)) hv
    | cons d n =>
      obtain ⟨b, u⟩ := d
      obtain rfl : a = b := Nat.le_antisymm (Memory.first_le_of_read_eq hn hm (h b).symm)
        (Memory.first_le_of_read_eq hm hn (h a))
      obtain ⟨-, -, -, hrest'⟩ := Memory.wfFrom_cons.1 hn
      have hvu : v = u := by
        rw [← Memory.read_cons_self (p := p) a v m, h a, Memory.read_cons_self]
      have hmn : m = n := by
        refine ih hrest hrest' fun d => ?_
        by_cases hd : d = a
        · rw [hd, Memory.read_of_lt hrest (Nat.lt_succ_self a),
            Memory.read_of_lt hrest' (Nat.lt_succ_self a)]
        · rw [← Memory.read_cons_of_ne v m hd, h d, Memory.read_cons_of_ne u n hd]
      rw [hvu, hmn]

end Canonical

/-- Settles O11, by induction on the lists. -/
theorem memoryFormIsCanonical : Obligations.MemoryFormIsCanonical := fun _ _ _ hm hn h =>
  Memory.eq_of_read_eq hm hn h

/-! ### Reset and load (spec/70_reset_and_hazards.md R160, R161) -/

/-- Settles O9: the values of R160 as written; memory lists nothing, so it reads as the font and 0. -/
theorem resetState : Obligations.ResetState := by
  refine ⟨?_, rfl, rfl, rfl, rfl⟩
  rintro p s rfl
  exact ⟨State.reg_resetWith p, rfl, rfl, rfl, rfl, rfl, Grid.pixel_clear, rfl, rfl, rfl, rfl,
    fun a h => Memory.initial_of_lt h, fun a h => Memory.initial_of_le h⟩

theorem bootWith_of_fits {p : Params} {image : List Byte} (h : image.length ≤ p.progMax) :
    bootWith p image = .next ((State.resetWith p).store Config.progBase image) := if_pos h

theorem bootWith_of_oversize {p : Params} {image : List Byte} (h : p.progMax < image.length) :
    bootWith p image = .refused (.oversizeImage image.length) := if_neg (Nat.not_le.2 h)

/-- Settles O10: the load is one store into the reset state. -/
theorem bootPlacesTheImage : Obligations.BootPlacesTheImage := by
  intro p image
  refine ⟨fun hfits => ?_, fun hover => bootWith_of_oversize hover⟩
  have hin : Config.progBase + image.length ≤ (State.resetWith p).params.size := by
    have hsize := p.size_cases
    change 0x200 + image.length ≤ p.size
    omega
  have hwf := State.reset_mem_wf p
  exact ⟨_, bootWith_of_fits hfits, rfl, State.memWf_store image hwf hin,
    fun k hk => State.byteAt_store hwf hin hk,
    fun a ha => State.byteAt_store_outside _ image ha⟩

/-! ### Call and return (spec/40_control.md R80, R82, R88) -/

/-- What a call that fits leaves (R82). -/
def State.called (nnn : BitVec 12) (s : State) : State :=
  { s.storeWord s.pushAddr s.advance.pc with sp := s.sp + 2, pc := addrOperand nnn }

/-- What a return that finds a slot leaves (R80). -/
def State.returned (s : State) : State := { s with pc := s.wordAt s.popAddr, sp := s.sp - 2 }

section Call

variable {s : State} (nnn : BitVec 12)

theorem exec_call_called (h : s.sp.toNat + 2 ≤ s.params.size) :
    exec (.call nnn) s = .next (s.called nnn) := exec_call_of_le nnn h

theorem exec_ret_returned (h : 2 ≤ s.sp.toNat) : exec .ret s = .next s.returned :=
  exec_ret_of_le h

theorem State.called_eq (s : State) :
    s.called nnn = { s with
      pc := addrOperand nnn, sp := s.sp + 2, mem := (s.called nnn).mem } := rfl

theorem State.pushAddr_add_two_le (h : s.sp.toNat + 2 ≤ s.params.size) :
    s.pushAddr + 2 ≤ s.params.size := by
  unfold State.pushAddr
  omega

theorem State.memWf_called (hwf : s.memWf = true) (h : s.sp.toNat + 2 ≤ s.params.size) :
    (s.called nnn).memWf = true := State.memWf_storeWord _ hwf (State.pushAddr_add_two_le h)

theorem State.toNat_sp_called (h : s.sp.toNat + 2 ≤ s.params.size) :
    (s.called nnn).sp.toNat = s.sp.toNat + 2 := State.toNat_sp_add_two h

theorem State.wordAt_called (hwf : s.memWf = true) (h : s.sp.toNat + 2 ≤ s.params.size) :
    (s.called nnn).wordAt s.pushAddr = s.pc + 2 := by
  change (s.storeWord s.pushAddr (s.pc + 2)).wordAt s.pushAddr = s.pc + 2
  exact State.wordAt_storeWord _ hwf (State.pushAddr_add_two_le h)

theorem State.byteAt_called_outside {a : Nat} (ha : a < s.pushAddr ∨ s.pushAddr + 2 ≤ a) :
    (s.called nnn).byteAt a = s.byteAt a := s.byteAt_storeWord_outside _ ha

theorem State.byteAt_called_high (hwf : s.memWf = true) (h : s.sp.toNat + 2 ≤ s.params.size) :
    (s.called nnn).byteAt s.pushAddr = highByte (s.pc + 2) :=
  State.byteAt_storeWord_high _ hwf (State.pushAddr_add_two_le h)

theorem State.byteAt_called_low (hwf : s.memWf = true) (h : s.sp.toNat + 2 ≤ s.params.size) :
    (s.called nnn).byteAt (s.pushAddr + 1) = lowByte (s.pc + 2) :=
  State.byteAt_storeWord_low _ hwf (State.pushAddr_add_two_le h)

end Call

/-- Settles O16: a call that fits is one store of a word into the new slot. -/
theorem callPushesReturnAddress : Obligations.CallPushesReturnAddress := by
  intro nnn s hwf
  refine ⟨fun hfits => ?_, exec_call_of_overflow nnn⟩
  have hlow : s.params.size - 1 - s.sp.toNat = s.pushAddr + 1 := by
    unfold State.pushAddr
    omega
  refine ⟨_, exec_call_called nnn hfits, toNat_addrOperand nnn, State.toNat_sp_called nnn hfits,
    State.called_eq nnn s, ?_, ?_, fun a hhigh hlow' => ?_⟩
  · exact (congrArg BitVec.toNat (State.byteAt_called_high nnn hwf hfits)).trans (toNat_highByte _)
  · rw [hlow, State.byteAt_called_low nnn hwf hfits, toNat_lowByte]
  · refine State.byteAt_called_outside nnn ?_
    rw [hlow] at hlow'
    change a ≠ s.pushAddr at hhigh
    omega

/-- Settles O17: a return reads the top slot and writes `PC` and `SP` alone. -/
theorem returnPopsAddress : Obligations.ReturnPopsAddress := by
  intro s
  refine ⟨fun hsp _ => ?_, exec_ret_of_underflow⟩
  exact ⟨_, exec_ret_returned hsp, toNat_wordOfBytes _ _, BitVec.toNat_sub_of_le hsp, rfl⟩

theorem execAll_cons {i : Instr} {s t : State} (h : exec i s = .next t) (is : List Instr) :
    execAll (i :: is) s = execAll is t := by
  rw [execAll, h]

theorem execAll_append {is : List Instr} {s t : State} (h : execAll is s = .next t)
    (js : List Instr) : execAll (is ++ js) s = execAll js t := by
  induction is generalizing s with
  | nil =>
    obtain rfl := Host.Outcome.next.inj h
    rfl
  | cons i is ih =>
    obtain ⟨u, hu, -⟩ := exists_exec_admits i s
    rw [execAll_cons hu] at h
    rw [List.cons_append, execAll_cons hu, ih h]

/-- A return whose slot still holds what the call pushed undoes the call, but for the slot's bytes. -/
theorem State.returned_of_called {s t : State} (nnn : BitVec 12) (hwf : s.memWf = true)
    (h : s.sp.toNat + 2 ≤ s.params.size)
    (ht : t = { s.called nnn with pc := t.pc, mem := t.mem })
    (hslot : ∀ a, s.pushAddr ≤ a → t.byteAt a = (s.called nnn).byteAt a) :
    t.returned = { s with pc := s.pc + 2, mem := t.mem } := by
  have hpop : t.popAddr = s.pushAddr := by
    rw [ht]
    change s.params.size - (s.called nnn).sp.toNat = s.params.size - 2 - s.sp.toNat
    rw [State.toNat_sp_called nnn h]
    omega
  have hword : t.wordAt t.popAddr = s.pc + 2 := by
    rw [hpop, ← State.wordAt_called nnn hwf h]
    exact congrArg₂ wordOfBytes (hslot _ (le_refl _)) (hslot _ (Nat.le_succ _))
  have hsp : t.sp - 2 = s.sp := by
    rw [ht]
    exact BitVec.add_sub_cancel s.sp 2
  rw [State.returned, hword, hsp, ht]
  rfl

/-- Settles O18, by induction on the targets: the calls and returns inside leave the outermost slot, which
lies above theirs, as the first call filled it. -/
theorem nestedCallsReturn : Obligations.NestedCallsReturn := by
  intro targets
  induction targets with
  | nil => exact fun s _ _ => ⟨s, rfl, rfl, fun h => absurd rfl h, fun _ _ => rfl⟩
  | cons nnn targets ih =>
    intro s hwf hfits
    rw [List.length_cons] at hfits
    have hfirst : s.sp.toNat + 2 ≤ s.params.size := by omega
    have hsp := State.toNat_sp_called nnn hfirst
    have hpush : s.pushAddr = s.params.size - 2 - s.sp.toNat := rfl
    have hparams : (s.called nnn).params = s.params := rfl
    obtain ⟨t, hrun, ht, -, hbytes⟩ := ih (s.called nnn) (State.memWf_called nnn hwf hfirst)
      (by rw [hsp, hparams]; omega)
    rw [hsp, hparams] at hbytes
    have hslot : t.returned = { s with pc := s.pc + 2, mem := t.mem } :=
      State.returned_of_called nnn hwf hfirst ht fun a ha => hbytes a (by omega)
    have htsp : 2 ≤ t.sp.toNat := by
      rw [ht]
      change 2 ≤ (s.called nnn).sp.toNat
      omega
    refine ⟨t.returned, ?_, ?_, fun _ => ?_, fun a ha => ?_⟩
    · rw [List.length_cons, List.map_cons, List.replicate_succ', List.cons_append,
        execAll_cons (exec_call_called nnn hfirst), ← List.append_assoc, execAll_append hrun,
        execAll_cons (exec_ret_returned htsp), execAll]
    · rw [hslot]
    · rw [hslot]
    · rw [List.length_cons] at ha
      calc t.returned.byteAt a = t.byteAt a := rfl
        _ = (s.called nnn).byteAt a := hbytes a (by omega)
        _ = s.byteAt a := State.byteAt_called_outside nnn (by omega)

end Sys2Proof.Machine

namespace Sys2Proof.Machine

/-! ### Transfers between registers and memory (spec/42_index_memory.md R108 to R110) -/

theorem exec_ldBVx_of_inside (x : RegIdx) {s : State} (h : s.i.toNat + 2 < s.params.size) :
    exec (.ldBVx x) s = .next (s.advance.store s.indexAddr (decimalDigits (s.reg x))) :=
  inMemory_of_inside (.inr h)

theorem exec_ldMiVx_of_inside (x : RegIdx) {s : State} (h : s.i.toNat + x.val < s.params.size) :
    exec (.ldMiVx x) s = .next (s.advance.store s.indexAddr ((regRange x).map s.reg)) :=
  inMemory_of_inside (.inr h)

theorem exec_ldVxMi_of_inside (x : RegIdx) {s : State} (h : s.i.toNat + x.val < s.params.size) :
    exec (.ldVxMi x) s = .next (s.advance.loadRegs s.indexAddr (regRange x)) :=
  inMemory_of_inside (.inr h)

/-- The bytes FX55 stores, by register. -/
theorem getElem_map_regRange (s : State) {x r : RegIdx}
    (hr : r.val < ((regRange x).map s.reg).length) :
    ((regRange x).map s.reg)[r.val] = s.reg r := by
  rw [List.getElem_map]
  exact congrArg s.reg (Fin.ext (getElem_regRange x r.val _))

/-- Loading registers changes the register file alone. -/
theorem State.loadRegs_eq (base : Nat) (rs : List RegIdx) (s : State) :
    s.loadRegs base rs = { s with v := (s.loadRegs base rs).v } := by
  induction rs generalizing s with
  | nil => rfl
  | cons r rs ih => exact ih (s.setReg r (s.byteAt (base + r.val)))

/-- Settles O29: three bytes are stored on the cycle's advance, or the bounds check faults. -/
theorem decimalDigitsStored : Obligations.DecimalDigitsStored := by
  intro x s hwf
  refine ⟨fun hin => ?_, fun hout => inMemory_of_outside (Nat.succ_pos 2) (Nat.lt_succ_of_le hout)⟩
  have digit (k : Nat) (hk : k < 3) :
      (s.advance.store s.indexAddr (decimalDigits (s.reg x))).byteAt (s.i.toNat + k) =
        (decimalDigits (s.reg x))[k] :=
    State.byteAt_store (s := s.advance) hwf hin hk
  refine ⟨_, exec_ldBVx_of_inside x hin, ?_, ?_, ?_, fun a ha => ?_, rfl⟩
  · exact (congrArg BitVec.toNat (digit 0 (by decide))).trans BitVec.toNat_udiv
  · rw [digit 1 (by decide)]
    exact BitVec.toNat_umod.trans (congrArg (· % 10) BitVec.toNat_udiv)
  · exact (congrArg BitVec.toNat (digit 2 (by decide))).trans BitVec.toNat_umod
  · exact State.byteAt_store_outside s.advance _ ha

/-- Settles O30: the registers up to `V[x]` are stored in order on the cycle's advance, or the bounds
check faults. -/
theorem registersStored : Obligations.RegistersStored := by
  intro x s hwf
  refine ⟨fun hin => ?_, fun hout =>
    inMemory_of_outside (Nat.succ_pos x.val) (Nat.lt_succ_of_le hout)⟩
  have hlen : ((regRange x).map s.reg).length = x.val + 1 := by
    rw [List.length_map, length_regRange]
  refine ⟨_, exec_ldMiVx_of_inside x hin, fun r hr => ?_, fun a ha => ?_, rfl⟩
  · have hr' : r.val < ((regRange x).map s.reg).length := by
      rw [hlen]
      exact Nat.lt_succ_of_le hr
    rw [← getElem_map_regRange s hr']
    refine State.byteAt_store (s := s.advance) hwf ?_ hr'
    rw [hlen]
    exact hin
  · refine State.byteAt_store_outside s.advance _ ?_
    rw [hlen]
    exact ha

/-- Settles O31: the registers up to `V[x]` are loaded on the cycle's advance, or the bounds check
faults. -/
theorem registersLoaded : Obligations.RegistersLoaded := by
  intro x s
  refine ⟨fun hin => ?_, fun hout =>
    inMemory_of_outside (Nat.succ_pos x.val) (Nat.lt_succ_of_le hout)⟩
  refine ⟨_, exec_ldVxMi_of_inside x hin, fun r => ?_, State.loadRegs_eq _ _ s.advance⟩
  rw [State.reg_loadRegs]
  simp only [mem_regRange, State.byteAt_advance, State.reg_advance, State.indexAddr]

/-- Settles O32: what FX65 reads is what FX55 stored. -/
theorem dumpThenLoadRestores : Obligations.DumpThenLoadRestores := by
  intro x s t u w hwf hin hdump hmem hparams hi hload r
  obtain ⟨t', ht', hstored, -, hframe⟩ := (registersStored x s hwf).1 hin
  obtain rfl : t' = t := Host.Outcome.next.inj (ht'.symm.trans hdump)
  have hi' : u.i = s.i := by rw [hi, hframe]
  have hparams' : u.params = s.params := by rw [hparams, hframe]
  obtain ⟨w', hw', hloaded, -⟩ := (registersLoaded x u).1 (by rw [hi', hparams']; exact hin)
  obtain rfl : w' = w := Host.Outcome.next.inj (hw'.symm.trans hload)
  rw [hloaded r]
  split
  case isTrue hr => rw [State.byteAt_congr hmem hparams, hi', hstored r hr]
  case isFalse => rfl

/-- Settles O33: the two bytes at the new `PC` are the first two that FX55 stored. -/
theorem storedWordIsFetched : Obligations.StoredWordIsFetched := by
  intro x s t hwf hin hx hi hdump
  obtain ⟨t', ht', hstored, -, hframe⟩ := (registersStored x s hwf).1 hin
  obtain rfl : t' = t := Host.Outcome.next.inj (ht'.symm.trans hdump)
  have hpc : t'.pc = s.i := by rw [hi, hframe]
  have hparams : t'.params = s.params := by rw [hframe]
  have hfirst : t'.byteAt s.i.toNat = s.reg 0 := hstored 0 (Nat.zero_le _)
  have hsecond : t'.byteAt (s.i.toNat + 1) = s.reg 1 := hstored 1 (Fin.le_def.2 hx)
  rw [State.fetch_of_inside (by rw [hpc, hparams]; omega), hpc]
  exact congrArg Except.ok (congrArg₂ wordOfBytes hfirst hsecond)

end Sys2Proof.Machine

namespace Sys2Proof.Machine

/-! ### The pixel grid (spec/43_display.md R112 to R115) -/

/-- The tone of a frame tick: is the timer at something else than 0 (R144)? -/
theorem bne_zero_eq_decide (b : Byte) : (b != 0) = decide (b ≠ 0) := by
  rw [Bool.eq_iff_iff, bne_iff_ne, decide_eq_true_eq]

/-- Settles O34: the clear writes the grid alone, and a frame tick that does not quit hands it over. -/
theorem clearGridClearsEveryPixel : Obligations.ClearGridClearsEveryPixel := by
  intro s
  refine ⟨_, exec_cls s, Grid.pixel_clear, rfl, fun p hquit => ?_⟩
  rw [State.frameTickWith_output, hquit, bne_zero_eq_decide]
  rfl

/-- Grids of equal pixels are equal. -/
theorem Grid.eq_of_pixel_eq {g h : Grid} (e : ∀ px py, g.pixel px py = h.pixel px py) : g = h := by
  refine Vector.ext fun py hpy => BitVec.eq_of_getMsbD_eq fun px _ => ?_
  have hpixel := e px py
  simpa only [Grid.pixel, hpy, dif_pos] using hpixel

theorem flagOf_eq_one_iff (c : Bool) : flagOf c = 1 ↔ c = true := by
  cases c <;> decide

theorem flagOf_eq_zero_iff (c : Bool) : flagOf c = 0 ↔ c = false := by
  cases c <;> decide

/-- The bits DXYN puts on the grid from the state `s`. -/
def State.sprite (s : State) (x y : RegIdx) (n : Nat) : Nat → Nat → Bool :=
  spriteBit s.byteAt s.i.toNat ((s.reg x).toNat % 64) ((s.reg y).toNat % 32) n

/-- What DXYN leaves where the rows drawn exist. -/
def State.afterDraw (s : State) (x y : RegIdx) (n : Nat) : State :=
  { s.advance with grid := (s.drawn x y n).1 }.setReg VF (flagOf (s.drawn x y n).2)

/-- Rows below the bottom edge put no bit on the grid. -/
theorem spriteBit_clipped (byteAt : Nat → Byte) (base x0 y0 n px py : Nat) :
    spriteBit byteAt base x0 y0 (min n (32 - y0)) px py = spriteBit byteAt base x0 y0 n px py := by
  by_cases hpy : py < 32
  · by_cases hy0 : y0 ≤ py
    · have hrow : py < y0 + min n (32 - y0) ↔ py < y0 + n := by omega
      simp only [spriteBit, hrow]
    · simp [spriteBit, hy0]
  · simp [spriteBit, hpy]

/-- The drawing loops draw the sprite's bits. -/
theorem State.draws_drawn (s : State) (x y : RegIdx) (n : Nat) :
    Grid.Draws (s.sprite x y n) (s.grid, false) (s.drawn x y n) := by
  rw [State.drawn, List.range_eq_range']
  refine (Grid.draws_rows s.byteAt s.indexAddr (s.originX x) (s.originY y) (s.rowsDrawn y n) 0
    (s.grid, false)).of_eq fun px py => ?_
  have hclip : spriteBit s.byteAt s.indexAddr (s.originX x) (s.originY y) (s.rowsDrawn y n) px py =
      s.sprite x y n px py := spriteBit_clipped s.byteAt s.indexAddr _ _ n px py
  rw [Nat.zero_add, Nat.add_zero, hclip]
  by_cases hpy : s.originY y ≤ py
  · simp [hpy]
  · have hnone : s.sprite x y n px py = false := by
      have hpy' : ¬ (s.reg y).toNat % 32 ≤ py := hpy
      simp [State.sprite, spriteBit, hpy']
    simp [hnone]

theorem State.pixel_afterDraw (s : State) (x y : RegIdx) (n px py : Nat) :
    (s.afterDraw x y n).grid.pixel px py = (s.grid.pixel px py ^^ s.sprite x y n px py) :=
  (s.draws_drawn x y n).1 px py

theorem State.flag_afterDraw (s : State) (x y : RegIdx) (n : Nat) :
    (s.afterDraw x y n).reg VF = flagOf (s.drawn x y n).2 := State.reg_setReg_self _ _ _

theorem State.flag_afterDraw_eq_one_iff (s : State) (x y : RegIdx) (n : Nat) :
    (s.afterDraw x y n).reg VF = 1 ↔
      ∃ px py, s.grid.pixel px py = true ∧ s.sprite x y n px py = true := by
  rw [State.flag_afterDraw, flagOf_eq_one_iff, (s.draws_drawn x y n).2]
  exact or_iff_right Bool.false_ne_true

theorem State.flag_afterDraw_cases (s : State) (x y : RegIdx) (n : Nat) :
    (s.afterDraw x y n).reg VF = 0 ∨ (s.afterDraw x y n).reg VF = 1 := by
  rw [State.flag_afterDraw, flagOf_eq_one_iff, flagOf_eq_zero_iff]
  exact (Bool.eq_false_or_eq_true _).symm

theorem exec_drw_of_inside (x y : RegIdx) (n : Nat) {s : State}
    (h : s.rowsDrawn y n = 0 ∨ s.i.toNat + s.rowsDrawn y n ≤ s.params.size) :
    exec (.drw x y n) s = .next (s.afterDraw x y n) := inMemory_of_inside h

/-- A draw that leaves a running machine did not fault. -/
theorem afterDraw_of_exec {x y : RegIdx} {n : Nat} {s t : State}
    (h : exec (.drw x y n) s = .next t) (ht : t.status = .running) :
    (s.rowsDrawn y n = 0 ∨ s.i.toNat + s.rowsDrawn y n ≤ s.params.size) ∧
      t = s.afterDraw x y n := by
  obtain hdraw | ⟨-, -, rfl⟩ := inMemory_cases h
  · exact hdraw
  · exact absurd ht Status.noConfusion

/-- Settles O35: what the drawing loops do, with the rows cut off at the bottom. -/
theorem drawIsPixelwiseXor : Obligations.DrawIsPixelwiseXor := by
  intro x y n s hin
  exact ⟨_, exec_drw_of_inside x y n hin, s.pixel_afterDraw x y n, s.flag_afterDraw_cases x y n,
    s.flag_afterDraw_eq_one_iff x y n, fun r hr => State.reg_setReg_of_ne _ _ hr, rfl⟩

/-- Settles O36: the bounds check is of the rows drawn. -/
theorem drawFaultsPastMemory : Obligations.DrawFaultsPastMemory := fun _ _ _ _ hrows hout =>
  inMemory_of_outside hrows hout

/-- Settles O37: the second draw puts the same bits, and a bit put twice is gone; the second draw meets a
bit of the sprite exactly where the first one set it. -/
theorem drawTwiceRestores : Obligations.DrawTwiceRestores := by
  intro x y n s t u hfirst ht hx hy hsecond
  obtain ⟨hin, rfl⟩ := afterDraw_of_exec hfirst ht
  have hrows : (s.afterDraw x y n).rowsDrawn y n = s.rowsDrawn y n :=
    congrArg (fun y0 => min n (32 - y0)) hy
  have hsprite : (s.afterDraw x y n).sprite x y n = s.sprite x y n := by
    rw [State.sprite, State.sprite, hx, hy]
    rfl
  obtain rfl : (s.afterDraw x y n).afterDraw x y n = u := by
    refine Host.Outcome.next.inj ((exec_drw_of_inside x y n ?_).symm.trans hsecond)
    rw [hrows]
    exact hin
  have hflag : ((s.afterDraw x y n).afterDraw x y n).reg VF = 1 ↔
      ∃ px py, s.grid.pixel px py = false ∧ s.sprite x y n px py = true := by
    rw [State.flag_afterDraw_eq_one_iff, hsprite]
    refine exists_congr fun px => exists_congr fun py => and_congr_left fun hbit => ?_
    rw [State.pixel_afterDraw, hbit, Bool.xor_true, Bool.not_eq_true']
  refine ⟨?_, hflag, fun hzero => ?_⟩
  · refine Grid.eq_of_pixel_eq fun px py => ?_
    rw [State.pixel_afterDraw, State.pixel_afterDraw, hsprite, Bool.xor_assoc, Bool.xor_self,
      Bool.xor_false]
  · refine hflag.trans (exists_congr fun px => exists_congr fun py =>
      and_iff_right_of_imp fun hbit => ?_)
    by_contra hset
    have hone := (s.flag_afterDraw_eq_one_iff x y n).2 ⟨px, py, Bool.eq_true_of_not_eq_false hset, hbit⟩
    rw [hzero] at hone
    exact absurd hone (by decide)

/-- A running machine with `I` at the first glyph of the font and every pixel of grid row 0 set. -/
def State.rowZeroSet : State :=
  { State.reset with grid := Grid.clear.set 0 (BitVec.allOnes 64) }

/-- Refutes O38: over a grid row that is set, a glyph row drawn at the origin is cleared by the first draw,
so the second one meets no set pixel. -/
theorem not_secondDrawAlwaysCollides : ¬ Obligations.SecondDrawAlwaysCollides := by
  intro h
  have hcollides := (h 0 1 1 State.rowZeroSet _ _ rfl rfl rfl (by decide) (by decide) rfl).2
    ⟨0, 0, by decide⟩
  exact absurd hcollides (by decide)

end Sys2Proof.Machine

namespace Sys2Proof.Machine

/-! ### The flag-writing instructions on numbers (spec/41_register_alu.md R90 to R102) -/

theorem toNat_flagOf (c : Bool) : (flagOf c).toNat = if c = true then 1 else 0 := by
  cases c <;> rfl

theorem toNat_carryFlag (a b : Byte) :
    (carryFlag a b).toNat = if 255 < a.toNat + b.toNat then 1 else 0 := by
  rw [carryFlag, toNat_flagOf]
  simp only [decide_eq_true_eq]

theorem toNat_greaterFlag (a b : Byte) :
    (greaterFlag a b).toNat = if b.toNat < a.toNat then 1 else 0 := by
  rw [greaterFlag, toNat_flagOf]
  simp only [decide_eq_true_eq]

theorem toNat_lowBitFlag (a : Byte) : (lowBitFlag a).toNat = a.toNat % 2 :=
  (BitVec.toNat_and _ _).trans (Nat.and_two_pow_sub_one_eq_mod _ 1)

theorem toNat_topBitFlag (a : Byte) : (topBitFlag a).toNat = a.toNat / 128 :=
  (BitVec.toNat_ushiftRight _ _).trans (Nat.shiftRight_eq_div_pow _ 7)

theorem toNat_byte_sub (a b : Byte) : (a - b).toNat = (256 + a.toNat - b.toNat) % 256 := by
  have hb : b.toNat < 256 := b.isLt
  rw [BitVec.toNat_sub]
  congr 1
  omega

theorem toNat_byte_shiftRight_one (a : Byte) : (a >>> 1).toNat = a.toNat / 2 :=
  (BitVec.toNat_ushiftRight _ _).trans (Nat.shiftRight_eq_div_pow _ 1)

theorem toNat_byte_shiftLeft_one (a : Byte) : (a <<< 1).toNat = 2 * a.toNat % 256 := by
  rw [BitVec.toNat_shiftLeft, Nat.shiftLeft_eq, Nat.mul_comm]

/-- The operation writes `V[15]` and `V[x]`, on the cycle's advance. -/
theorem State.alu_advance_eq (flag result : Byte → Byte → Byte) (x y : RegIdx) (s : State) :
    s.advance.alu flag result x y =
      { s with v := (s.advance.alu flag result x y).v, pc := s.pc + 2 } := rfl

/-- Byte functions that are `flag'` and `result'` on numbers have the outcome that R90 gives these. -/
theorem aluOutcome_alu {flag result : Byte → Byte → Byte} {flag' result' : Nat → Nat → Nat}
    (hflag : ∀ a b, (flag a b).toNat = flag' a.toNat b.toNat)
    (hresult : ∀ a b, (result a b).toNat = result' a.toNat b.toNat) (x y : RegIdx) (s : State) :
    aluOutcome flag' result' x y s (s.advance.alu flag result x y) := by
  refine ⟨?_, fun hx => ?_, fun r hr hf => ?_, s.alu_advance_eq flag result x y⟩
  · rw [State.alu, State.reg_aluWith_self, hresult, apply_ite BitVec.toNat, apply_ite BitVec.toNat,
      hflag]
    rfl
  · rw [State.alu, State.reg_aluWith_flag _ _ _ y _ hx, hflag]
    rfl
  · exact State.reg_aluWith_of_ne _ _ _ y s.advance hr hf

/-- Settles O22. The carry flag and the byte sum, on numbers. -/
theorem addWithCarry : Obligations.AddWithCarry := fun x y s =>
  ⟨_, exec_addVxVy x y s, aluOutcome_alu toNat_carryFlag BitVec.toNat_add x y s⟩

/-- Settles O23. The flag of SUBN is that of SUB with the operands exchanged. -/
theorem subtractBothWays : Obligations.SubtractBothWays := fun x y s =>
  ⟨⟨_, exec_subVxVy x y s, aluOutcome_alu toNat_greaterFlag toNat_byte_sub x y s⟩,
    ⟨_, exec_subnVxVy x y s, aluOutcome_alu (fun a b => toNat_greaterFlag b a)
      (fun a b => toNat_byte_sub b a) x y s⟩⟩

/-- Settles O24. Neither the flag nor the result looks at the second operand. -/
theorem shiftsByOne : Obligations.ShiftsByOne := fun x y s =>
  ⟨⟨_, exec_shrVxVy x y s, aluOutcome_alu (fun a _ => toNat_lowBitFlag a)
      (fun a _ => toNat_byte_shiftRight_one a) x y s⟩,
    ⟨_, exec_shlVxVy x y s, aluOutcome_alu (fun a _ => toNat_topBitFlag a)
      (fun a _ => toNat_byte_shiftLeft_one a) x y s⟩,
    fun _ => ⟨rfl, rfl⟩⟩

theorem operandAfterFlag_of_ne (setting : AluVfRead) {r : RegIdx} (hr : r ≠ VF) (before : Byte)
    (s : State) : operandAfterFlag setting r before s = s.reg r := if_neg hr

/-- Settles O25: the setting is looked at for an operand `V[15]` only. -/
theorem settingMattersForVfOnly : Obligations.SettingMattersForVfOnly := by
  intro flag result x y s hx hy
  refine ⟨?_, ?_, State.reg_aluWith_flag _ flag result y s hx⟩
  · simp only [State.aluWith, operandAfterFlag_of_ne _ hx, operandAfterFlag_of_ne _ hy]
  · rw [State.reg_aluWith_self, if_neg (fun h => hx h.1), if_neg (fun h => hy h.1)]

/-! ### The random byte, and the sum in `I` -/

theorem State.reg_rndWith (s : State) (draw : Byte) (x : RegIdx) (nn : Byte) (r : RegIdx) :
    (s.rndWith draw x nn).reg r = if r = x then draw &&& nn else s.reg r :=
  s.reg_setReg x r (draw &&& nn)

/-- Settles O26: the one register written is the draw under the mask. -/
theorem randomByteIsMasked : Obligations.RandomByteIsMasked := by
  intro x nn s
  refine ⟨_, exec_rnd x nn s, fun k => ?_, fun r hr => ?_, rfl⟩
  · rw [State.reg_rndWith, if_pos rfl, BitVec.getLsbD_and]
  · rw [State.reg_rndWith, if_neg hr, State.reg_advance]

/-- A flag that is set or left changes the register file alone. -/
theorem State.setFlagIf_eq (s : State) (c : Bool) :
    s.setFlagIf c = { s with v := (s.setFlagIf c).v } := by
  cases c <;> rfl

/-- Settles O28: `V[15]` is set where the new `I` has a one in bits 15:12, and no register is written
otherwise. -/
theorem addToIndex : Obligations.AddToIndex := by
  intro x s
  refine ⟨_, exec_addIVx x s, ?_, ?_, fun r hr => ?_, ?_⟩
  · rw [State.setFlagIf_i, State.toNat_index_add]
  · rw [State.reg_setFlagIf_flag, State.setFlagIf_i, indexOverflows_eq]
    simp only [decide_eq_true_eq]
    rfl
  · exact State.reg_setFlagIf_of_ne _ _ hr
  · rw [State.setFlagIf_i]
    exact State.setFlagIf_eq _ _

/-! ### Keys and timers (spec/44_timer_input.md R116 to R120) -/

/-- The latch holds 4 bits, and the comparison is of 8 (D25). -/
theorem State.reg_eq_key_iff (s : State) (x : RegIdx) :
    s.reg x = s.key.setWidth 8 ↔ (s.reg x).toNat = s.key.toNat := by
  have hkey : (s.key.setWidth 8).toNat = s.key.toNat := BitVec.toNat_setWidth_of_le (by decide)
  rw [← BitVec.toNat_inj, hkey]

theorem State.keyIs_iff (s : State) (x : RegIdx) :
    s.keyIs x = true ↔ s.keyActive = true ∧ (s.reg x).toNat = s.key.toNat := by
  rw [State.keyIs, Bool.and_eq_true, beq_iff_eq, State.reg_eq_key_iff]

theorem State.keyIsNot_iff (s : State) (x : RegIdx) :
    s.keyIsNot x = true ↔ s.keyActive = true ∧ (s.reg x).toNat ≠ s.key.toNat := by
  rw [State.keyIsNot, Bool.and_eq_true, bne_iff_ne, ne_eq, State.reg_eq_key_iff]

/-- Settles O39: each skip is the cycle's advance and, where its comparison holds, a second one. -/
theorem keySkips : Obligations.KeySkips := by
  intro x s
  constructor
  · rw [exec_skp, State.skipIf_advance]
    simp only [State.keyIs_iff]
  · rw [exec_sknp, State.skipIf_advance]
    simp only [State.keyIsNot_iff]

/-- A count-down on numbers, where the subtraction stops at 0 (R151). -/
theorem toNat_countDown (b : Byte) : (countDown b).toNat = b.toNat - 1 := by
  unfold countDown
  split
  case isTrue h => rw [h]; rfl
  case isFalse h =>
    have hpos : b.toNat ≠ 0 := fun h0 => h (BitVec.eq_of_toNat_eq h0)
    exact BitVec.toNat_sub_of_le (BitVec.le_def.2 (Nat.one_le_iff_ne_zero.2 hpos))

/-- Settles O40: each copy is one write on the cycle's advance, and the next frame tick counts down and
takes the tone from the timer before that. -/
theorem timerCopies : Obligations.TimerCopies := by
  intro x s
  refine ⟨?_, ⟨_, exec_ldDtVx x s, rfl, fun p => ?_⟩, ⟨_, exec_ldStVx x s, rfl, fun p => ?_⟩⟩
  · rw [exec_ldVxDt, State.setReg_advance]
  · rw [State.frameTickWith_dt, toNat_countDown]
  · rw [State.frameTickWith_output, Option.map_some, bne_zero_eq_decide]

end Sys2Proof.Machine

namespace Sys2Proof.Machine

/-! ### The frame tick (spec/60_exceptions.md R142 to R151) -/

/-- The end of a tick moves the arbiter alone. -/
theorem State.afterTick_eq (s : State) :
    s.afterTick = { s with arbiter := s.afterTick.arbiter } := by
  unfold State.afterTick
  split <;> rfl

/-- Settles O42: the step is the frame tick with the poll that is next, and then the arbiter goes on. -/
theorem frameTickOutcome : Obligations.FrameTickOutcome := by
  intro s hs hturn
  refine ⟨_, step_of_frame hs hturn, ?_, ?_, ?_, ?_, ?_, ?_, ?_⟩
  · rw [State.afterTick_dt, State.frameTick, State.frameTickWith_dt, toNat_countDown]
  · rw [State.afterTick_st, State.frameTick, State.frameTickWith_st, toNat_countDown]
  · rw [State.afterTick_keyActive, State.frameTick, State.frameTickWith_keyActive]
  · rw [State.afterTick_key, State.frameTick, State.frameTickWith_key]
  · rw [State.afterTick_status, State.frameTick, State.frameTickWith_status, hs]
  · rw [State.afterTick_output, State.frameTick, State.frameTickWith_output, bne_zero_eq_decide]
  · rw [State.afterTick_eq]
    rfl

/-- Settles O43, by induction on the polls. -/
theorem timersCountDownToZero : Obligations.TimersCountDownToZero := by
  intro polls
  induction polls with
  | nil => exact fun s => ⟨rfl, rfl⟩
  | cons p polls ih =>
    intro s
    obtain ⟨hdt, hst⟩ := ih (s.frameTickWith p)
    rw [State.frameTickWith_dt, toNat_countDown] at hdt
    rw [State.frameTickWith_st, toNat_countDown] at hst
    rw [List.foldl_cons, List.length_cons]
    omega

/-! ### The instruction cycle (spec/30_encoding.md R72) -/

/-- An instruction tick leaves the arbiter to the end of the tick. -/
theorem instrTick_arbiter {s u : State} (h : instrTick s = .next u) : u.arbiter = s.arbiter := by
  obtain ⟨cause, rfl⟩ | ⟨f, hframe⟩ := instrTick_fault_or_frame h
  · rfl
  · obtain ⟨-, -, -, -, -, -, -, -, -, -, -, harbiter, -⟩ := hframe
    exact harbiter

theorem decode_of_decodeBytes {hi lo : Byte} {i : Instr} {rest : List Byte}
    (h : decodeBytes [hi, lo] = .ok (i, rest)) : decode (wordOfBytes hi lo) = .ok i := by
  rw [decodeBytes_pair] at h
  cases hw : decode (wordOfBytes hi lo) with
  | error r =>
    rw [hw] at h
    cases h
  | ok j =>
    rw [hw] at h
    obtain ⟨rfl, -⟩ := Prod.mk.inj (Except.ok.inj h)
    rfl

theorem step_of_instr_next {s u : State} (hs : s.status = .running) (hturn : s.arbiter.turn = .instr)
    (h : instrTick s = .next u) : step s = .next u.afterTick := by
  rw [step_of_instr hs hturn, h, afterTickResult]

/-- A machine that an instruction tick has stopped keeps its arbiter (R136). -/
theorem step_of_instr_fault {s : State} {cause : FaultCause} (hs : s.status = .running)
    (hturn : s.arbiter.turn = .instr) (h : instrTick s = .next (s.takeFault cause)) :
    step s = .next (s.takeFault cause) := by
  rw [step_of_instr_next hs hturn h, State.afterTick_of_not_running]
  exact Status.noConfusion

/-- Settles O44: the two bytes at `PC` are the word fetched, and the tick is `exec` of what it decodes
to. -/
theorem stepRunsDecodedInstruction : Obligations.StepRunsDecodedInstruction := by
  intro s i rest hs hturn hpc hbytes
  have htick : instrTick s = exec i s :=
    instrTick_of_decoded (State.fetch_of_inside hpc) (decode_of_decodeBytes hbytes)
  refine ⟨by rw [step_of_instr hs hturn, htick], fun t ht => ?_⟩
  rw [← htick] at ht
  rw [step_of_instr_next hs hturn ht]
  refine ⟨fun hrun => ?_, fun hstop => ?_⟩
  · rw [State.afterTick_of_running hrun, instrTick_arbiter ht]
  · rw [State.afterTick_of_not_running hstop]

/-- Settles O45: the cycle takes the fault before any instruction runs. -/
theorem unsupportedWordFaults : Obligations.UnsupportedWordFaults := fun _ _ hs hturn hpc hreject =>
  step_of_instr_fault hs hturn (instrTick_of_rejected (State.fetch_of_inside hpc) hreject)

/-- Settles O46: the fetch faults at the larger of `PC` and `MEM_SIZE`, the first address that does not
exist. -/
theorem fetchFaultsPastMemory : Obligations.FetchFaultsPastMemory := by
  intro s hs hturn hpc
  have hfirst : max s.pc.toNat s.params.size =
      if s.params.size ≤ s.pc.toNat then s.pc.toNat else s.pc.toNat + 1 := by
    split
    · omega
    · omega
  rw [← hfirst]
  exact step_of_instr_fault hs hturn (instrTick_of_no_word (State.fetch_of_outside hpc))

/-- Settles O49: a step looks at the status first. -/
theorem stoppedMachineTakesNoStep : Obligations.StoppedMachineTakesNoStep := by
  refine ⟨fun s record hs => ?_, fun s hs => ?_⟩
  · rw [step, hs]
  · rw [step, hs]

/-! ### The arbiter (spec/60_exceptions.md R148) -/

/-- A step after which the machine runs moves the arbiter on by one event. -/
theorem step_arbiter {s t : State} (h : step s = .next t) (ht : t.status = .running) :
    t.arbiter = s.arbiter.next := by
  obtain ⟨-, ⟨-, u, hu, rfl⟩ | ⟨-, rfl⟩⟩ := step_cases h
  · rw [State.afterTick_status] at ht
    rw [State.afterTick_of_running ht, instrTick_arbiter hu]
  · rw [State.afterTick_status] at ht
    rw [State.afterTick_of_running ht]
    rfl

/-- A run of some steps begins with one. -/
theorem run_succ_cases {M : Host.Core} {k : Nat} {s t : M.State} (h : M.run (k + 1) s = .next t) :
    ∃ u, M.step s = .next u ∧ M.run k u = .next t := by
  rw [Host.Core.run] at h
  split at h
  case h_1 u hstep => exact ⟨u, hstep, h⟩
  case h_2 => cases h
  case h_3 => cases h

/-- After the events left of a run the other kind has its turn, by induction on their number. -/
theorem turn_of_run (left : Nat) {s t : State} (hleft : s.arbiter.left = left)
    (h : core.run (left + 1) s = .next t) (ht : t.status = .running) :
    t.arbiter.turn = otherTick s.arbiter.turn := by
  induction left generalizing s with
  | zero =>
    obtain ⟨u, hstep, hrest⟩ := run_succ_cases h
    obtain rfl : u = t := Host.Outcome.next.inj hrest
    rw [step_arbiter hstep ht, Arbiter.next, if_pos hleft]
  | succ left ih =>
    obtain ⟨u, hstep, hrest⟩ := run_succ_cases h
    obtain ⟨_, hnext, -⟩ := run_succ_cases hrest
    obtain ⟨hu, -⟩ := step_cases hnext
    have harbiter : u.arbiter = { s.arbiter with left := left } := by
      rw [step_arbiter hstep hu, Arbiter.next, if_neg (by omega), hleft, Nat.add_sub_cancel]
    rw [ih (by rw [harbiter]) hrest, harbiter]

/-- Settles O51. The number of events left of the current run bounds the wait. -/
theorem arbiterGivesBothTurns : Obligations.ArbiterGivesBothTurns := fun _ _ h ht =>
  turn_of_run _ rfl h ht

/-! ### The end of a program (R155) -/

/-- The fetch depends on `PC`, memory and the parameters alone. -/
theorem State.atEnd_of_eq {e : BitVec 12} {s t : State} (h : s.atEnd e)
    (hstatus : t.status = s.status) (hpc : t.pc = s.pc) (hmem : t.mem = s.mem)
    (hparams : t.params = s.params) : t.atEnd e := by
  simpa [State.atEnd, State.fetch, State.wordAt, hstatus, hpc, hmem, hparams] using h

/-- At the end an instruction tick is a jump to where `PC` is. -/
theorem State.instrTick_of_atEnd {e : BitVec 12} {s : State} (h : s.atEnd e) :
    instrTick s = .next s := by
  obtain ⟨-, hpc, hfetch⟩ := h
  rw [instrTick_of_decoded hfetch (decodeEncodeRoundTrip (.jpNnn e) rfl), exec_jpNnn,
    State.jump_of_toNat_pc_eq (congrArg BitVec.toNat hpc)]

/-- Settles O58: neither kind of tick touches `PC`, memory or the status there. -/
theorem jumpToSelfIsTheEnd : Obligations.JumpToSelfIsTheEnd := by
  intro e s h
  refine ⟨fun hturn => ?_, fun p hquit => ?_⟩
  · obtain ⟨hs, -⟩ := id h
    refine ⟨_, step_of_instr_next hs hturn (State.instrTick_of_atEnd h), State.afterTick_eq s, ?_⟩
    exact State.atEnd_of_eq h (by simp) (by simp) (by simp) (by simp)
  · exact State.atEnd_of_eq h (by simp [hquit]) rfl rfl rfl

/-! ### The timed reference (R149) -/

theorem Cadence.frameCheck_of_due {now : Nat} {c : Cadence} {s : State} (hs : s.status = .running)
    (h : s.params.framePeriodMs ≤ now - c.lastFrame) :
    Cadence.frameCheck now c s = ({ c with lastFrame := now }, .next s.frameTick) :=
  if_pos (by rw [Cadence.frameDue, decide_eq_true hs, decide_eq_true h, Bool.and_self])

theorem Cadence.frameCheck_of_not_due {now : Nat} {c : Cadence} {s : State}
    (h : now - c.lastFrame < s.params.framePeriodMs ∨ s.status ≠ .running) :
    Cadence.frameCheck now c s = (c, .next s) := by
  refine if_neg ?_
  rw [Cadence.frameDue, Bool.and_eq_true, decide_eq_true_eq, decide_eq_true_eq]
  rintro ⟨hs, hdue⟩
  exact h.elim (Nat.not_lt.2 hdue) (absurd hs)

theorem Cadence.iterate_of_due {now : Nat} {c : Cadence} {s t : State} (hs : s.status = .running)
    (h : s.params.instrPeriodMs ≤ now - c.lastInstr) (ht : instrTick s = .next t) :
    c.iterate now s = Cadence.frameCheck now { c with lastInstr := now } t := by
  rw [Cadence.iterate, if_pos ⟨hs, decide_eq_true h⟩, ht]

theorem Cadence.iterate_of_not_due {now : Nat} {c : Cadence} {s : State}
    (h : now - c.lastInstr < s.params.instrPeriodMs ∨ s.status ≠ .running) :
    c.iterate now s = Cadence.frameCheck now c s := by
  refine if_neg ?_
  rw [Cadence.instrDue, decide_eq_true_eq]
  rintro ⟨hs, hdue⟩
  exact h.elim (Nat.not_lt.2 hdue) (absurd hs)

/-- Settles O52: the two checks of a turn are independent, but for the status that the first one leaves. -/
theorem timedReferenceIteration : Obligations.TimedReferenceIteration := by
  intro now c s
  refine ⟨fun hs hinstr => ⟨fun hframe => ?_, fun hframe => ?_⟩,
    fun hs hinstr t ht => ⟨fun hframe => ?_, fun hframe hrun => ?_⟩, fun hs => ?_⟩
  · rw [Cadence.iterate_of_not_due (.inl hinstr), Cadence.frameCheck_of_not_due (.inl hframe)]
  · rw [Cadence.iterate_of_not_due (.inl hinstr), Cadence.frameCheck_of_due hs hframe]
  · rw [← instrTick_params ht] at hframe
    rw [Cadence.iterate_of_due hs hinstr ht]
    exact Cadence.frameCheck_of_not_due hframe
  · rw [← instrTick_params ht] at hframe
    rw [Cadence.iterate_of_due hs hinstr ht]
    exact Cadence.frameCheck_of_due hrun hframe
  · rw [Cadence.iterate_of_not_due (.inr hs), Cadence.frameCheck_of_not_due (.inr hs)]

theorem Cadence.exists_frameCheck_eq_next (now : Nat) (c : Cadence) (s : State) :
    ∃ c' t, Cadence.frameCheck now c s = (c', .next t) := by
  unfold Cadence.frameCheck
  split
  · exact ⟨_, _, rfl⟩
  · exact ⟨_, _, rfl⟩

/-- A turn answers a state, since an instruction tick does. -/
theorem Cadence.exists_iterate_eq_next (now : Nat) (c : Cadence) (s : State) :
    ∃ c' t, c.iterate now s = (c', .next t) := by
  obtain ⟨u, hu⟩ := exists_instrTick_eq_next s
  unfold Cadence.iterate
  split
  · rw [hu]
    exact Cadence.exists_frameCheck_eq_next _ _ u
  · exact Cadence.exists_frameCheck_eq_next _ _ s

theorem Cadence.loop_cons_of_running {now : Nat} {clock : List Nat} {c c' : Cadence} {s t : State}
    (h : c.iterate now s = (c', .next t)) (ht : t.status = .running) :
    c.loop (now :: clock) s = c'.loop clock t := by
  simp only [Cadence.loop, h, if_pos ht]

theorem Cadence.loop_cons_of_stopped {now : Nat} {clock : List Nat} {c c' : Cadence} {s t : State}
    (h : c.iterate now s = (c', .next t)) (ht : t.status ≠ .running) :
    c.loop (now :: clock) s = (c', .next t) := by
  simp only [Cadence.loop, h, if_neg ht]

/-- The loop over some readings answers a state, from which later readings go on if it runs, and which
they leave alone if not; by induction on the readings. -/
theorem Cadence.loop_append (clock : List Nat) (c : Cadence) {s : State} (hs : s.status = .running) :
    ∃ c' t, c.loop clock s = (c', .next t) ∧
      (∀ later, t.status = .running → c.loop (clock ++ later) s = c'.loop later t) ∧
      (∀ later, t.status ≠ .running → c.loop (clock ++ later) s = (c', .next t)) := by
  induction clock generalizing c s with
  | nil => exact ⟨c, s, rfl, fun _ _ => rfl, fun _ hstop => absurd hs hstop⟩
  | cons now clock ih =>
    obtain ⟨c₁, s₁, hturn⟩ := c.exists_iterate_eq_next now s
    by_cases hrun : s₁.status = .running
    · obtain ⟨c', t, hloop, hgoes, hstays⟩ := ih c₁ hrun
      refine ⟨c', t, ?_, fun later ht => ?_, fun later ht => ?_⟩
      · rw [Cadence.loop_cons_of_running hturn hrun, hloop]
      · rw [List.cons_append, Cadence.loop_cons_of_running hturn hrun, hgoes later ht]
      · rw [List.cons_append, Cadence.loop_cons_of_running hturn hrun, hstays later ht]
    · refine ⟨c₁, s₁, Cadence.loop_cons_of_stopped hturn hrun, fun _ ht => absurd ht hrun,
        fun later _ => ?_⟩
      exact Cadence.loop_cons_of_stopped hturn hrun

/-- One reading is one turn. -/
theorem Cadence.loop_singleton (now : Nat) (c : Cadence) (s : State) :
    c.loop [now] s = c.iterate now s := by
  obtain ⟨c', t, hturn⟩ := c.exists_iterate_eq_next now s
  rw [hturn]
  by_cases hrun : t.status = .running
  · exact Cadence.loop_cons_of_running hturn hrun
  · exact Cadence.loop_cons_of_stopped hturn hrun

/-- Settles O59: the reference is the loop from equal times. -/
theorem timedReferenceLoop : Obligations.TimedReferenceLoop := fun s hs =>
  ⟨fun _ _ => rfl, fun clock c => Cadence.loop_append clock c hs,
    fun now c => Cadence.loop_singleton now c s⟩

end Sys2Proof.Machine
